-- ==== Sys2Proof/Word.lean ====
section
/-! DEFINITION. The word types of the block and the list form of its memories. -/

namespace Sys2Proof

/-- A 32-bit word of the command port `CMD` (30_encoding.md R100); also the width of an operand
word, of a colour word and of the u32 state elements. -/
abbrev Word := BitVec 32

/-- A 16-bit field of a point or size word (30_encoding.md R109). -/
abbrev Half := BitVec 16

/-- An 8-bit character code of TEXT (30_encoding.md R111). -/
abbrev CharCode := BitVec 8

/-- A PCM or channel sample: SAMPLE_BITS = 16, two's complement (00_scope.md R5, 42_audio.md R186). -/
abbrev Sample := BitVec 16

/-- A memory: element index and element, one pair for every listed element. An address space is an
array "addressed by element index, never by byte address" (20_memory.md R70); the pairs stand in
strictly rising order of index (`Memory.wf` in Machine/Ops.lean). -/
abbrev Memory (w : Nat) := List (Nat × BitVec w)

end Sys2Proof
end

