-- ==== Sys2Proof/Syntax.lean ====
section
/-! DEFINITION. The 28 commands of 30_encoding.md R115, one constructor for each row of the opcode
table, with the operands as the encoding carries them (30_encoding.md R113). -/

namespace Sys2Proof

/-- A command with its operands. Coordinates are the 16-bit fields of a point word (read as s16 by the
meanings), sizes the 16-bit fields of a size word, colours whole 32-bit words. -/
inductive Instr where
  /-- BACK (R131). -/
  | back
  /-- SWAP (R132). -/
  | swap
  /-- PSET x, y, colour (R135). -/
  | pset (x y : Half) (colour : Word)
  /-- LINE x0, y0, x1, y1, colour (R136). -/
  | line (x0 y0 x1 y1 : Half) (colour : Word)
  /-- RECT x, y, w, h, colour (R138). -/
  | rect (x y w h : Half) (colour : Word)
  /-- BLIT x, y, w, h, data (R139). -/
  | blit (x y w h : Half) (data : List Word)
  /-- TEXT len, x, y, colour, chars (R140); `len` is the length of `chars`. -/
  | text (x y : Half) (colour : Word) (chars : List CharCode)
  /-- DCOMP (R151). -/
  | dcomp
  /-- DWAIT (R152). -/
  | dwait
  /-- DTRY (R153). -/
  | dtry
  /-- DCLR (R158). -/
  | dclr
  /-- DRESET (R159). -/
  | dreset
  /-- CHWAVE ch, kind (R171). -/
  | chwave (ch : BitVec 8) (kind : Half)
  /-- CHVOL ch, vol (R172). -/
  | chvol (ch : BitVec 8) (vol : Half)
  /-- CHFREQ ch, step (R173). -/
  | chfreq (ch : BitVec 8) (step : Word)
  /-- CHPOS ch, pos (R174). -/
  | chpos (ch : BitVec 8) (pos : Word)
  /-- CHSTART ch (R175). -/
  | chstart (ch : BitVec 8)
  /-- CHSTOP ch (R176). -/
  | chstop (ch : BitVec 8)
  /-- CHLOOP ch, flag (R178). -/
  | chloop (ch : BitVec 8) (flag : Half)
  /-- CHTABLE ch, base, len (R177). -/
  | chtable (ch : BitVec 8) (base len : Word)
  /-- MIXT (R193). -/
  | mixt
  /-- MIXD n (R194). -/
  | mixd (n : Half)
  /-- MIXW n (R195). -/
  | mixw (n : Half)
  /-- INSAMPLE (R212). -/
  | insample
  /-- RUN (R232). -/
  | run
  /-- CBRET v (R233). -/
  | cbret (v : Word)
  /-- PANIC (R238). -/
  | panic
  /-- RDREG n (R239). -/
  | rdreg (n : Half)
  deriving DecidableEq, Repr

end Sys2Proof
end

