-- ==== Sys2Proof/WellFormed.lean ====
section
/-! DEFINITION. Which terms of `Instr` a word sequence can stand for. Operand ranges and scheduler state
are not part of it: they make a well-formed command `Illegal` (30_encoding.md R117 cases 3 to 5). -/

namespace Sys2Proof

/-- A BLIT carries exactly w × h data words (30_encoding.md R110); the length of a TEXT is a u16
(30_encoding.md R111); every other command is well formed whatever its operands. -/
def Instr.wellFormed : Instr → Bool
  | .blit _ _ w h data => data.length == w.toNat * h.toNat
  | .text _ _ _ chars => decide (chars.length < 2 ^ 16)
  | _ => true

end Sys2Proof
end

