-- ==== Sys2Proof/Decode.lean ====
section
/-! DEFINITION. The decoder of the command port and the encoder, both from 30_encoding.md R100 to R121.
Cases 1 and 2 of R117 (reserved opcode, reserved field) are decided here; cases 3 to 5 need the
configuration and the scheduler state and are decided by `Sys2Proof.Machine.legal`. -/

namespace Sys2Proof

/-- The eleven formats (30_encoding.md R106 to R112); format C is split by whether IMM is free (R121). -/
inductive Format where
  | z
  | i
  | c
  | cZero
  | cw1
  | cw2
  | p
  | l
  | r
  | b
  | t
  | v
  deriving DecidableEq, Repr

/-- The opcode space in use: the 28 rows of 30_encoding.md R115. -/
inductive Opcode where
  | back | swap | pset | line | rect | blit | text
  | dcomp | dwait | dtry | dclr | dreset
  | chwave | chvol | chfreq | chpos | chstart | chstop | chloop | chtable
  | mixt | mixd | mixw
  | insample
  | run | cbret | panic
  | rdreg
  deriving DecidableEq, Repr

/-- The number of an opcode (30_encoding.md R115). -/
def Opcode.number : Opcode → BitVec 8
  | .back => 0x01
  | .swap => 0x02
  | .pset => 0x03
  | .line => 0x04
  | .rect => 0x05
  | .blit => 0x06
  | .text => 0x07
  | .dcomp => 0x10
  | .dwait => 0x11
  | .dtry => 0x12
  | .dclr => 0x13
  | .dreset => 0x14
  | .chwave => 0x20
  | .chvol => 0x21
  | .chfreq => 0x22
  | .chpos => 0x23
  | .chstart => 0x24
  | .chstop => 0x25
  | .chloop => 0x26
  | .chtable => 0x27
  | .mixt => 0x28
  | .mixd => 0x29
  | .mixw => 0x2A
  | .insample => 0x30
  | .run => 0x40
  | .cbret => 0x41
  | .panic => 0x42
  | .rdreg => 0x50

/-- The opcode an OPC field selects; none for the reserved space of 30_encoding.md R116. -/
def Opcode.ofNumber (n : BitVec 8) : Option Opcode :=
  match n.toNat with
  | 0x01 => some .back
  | 0x02 => some .swap
  | 0x03 => some .pset
  | 0x04 => some .line
  | 0x05 => some .rect
  | 0x06 => some .blit
  | 0x07 => some .text
  | 0x10 => some .dcomp
  | 0x11 => some .dwait
  | 0x12 => some .dtry
  | 0x13 => some .dclr
  | 0x14 => some .dreset
  | 0x20 => some .chwave
  | 0x21 => some .chvol
  | 0x22 => some .chfreq
  | 0x23 => some .chpos
  | 0x24 => some .chstart
  | 0x25 => some .chstop
  | 0x26 => some .chloop
  | 0x27 => some .chtable
  | 0x28 => some .mixt
  | 0x29 => some .mixd
  | 0x2A => some .mixw
  | 0x30 => some .insample
  | 0x40 => some .run
  | 0x41 => some .cbret
  | 0x42 => some .panic
  | 0x50 => some .rdreg
  | _ => none

/-- The format column of 30_encoding.md R115. -/
def Opcode.format : Opcode → Format
  | .back | .swap | .dcomp | .dwait | .dtry | .dclr | .dreset => .z
  | .mixt | .insample | .run | .panic => .z
  | .mixd | .mixw | .rdreg => .i
  | .chwave | .chvol | .chloop => .c
  | .chstart | .chstop => .cZero
  | .chfreq | .chpos => .cw1
  | .chtable => .cw2
  | .pset => .p
  | .line => .l
  | .rect => .r
  | .blit => .b
  | .text => .t
  | .cbret => .v

/-- The header bits a format fixes (30_encoding.md R121): OPC always, A and IMM where reserved. -/
def Format.mask : Format → Word
  | .z | .p | .l | .r | .b | .v => 0xFFFFFFFF
  | .i | .t => 0xFFFF0000
  | .c => 0xFF000000
  | .cZero | .cw1 | .cw2 => 0xFF00FFFF

/-- A header word from its fields {OPC, A, IMM} (30_encoding.md R101). -/
def header (opc a : BitVec 8) (imm : Half) : Word := opc ++ a ++ imm

/-- The match value of a row: its opcode number, every other bit 0 (30_encoding.md R121). -/
def Opcode.matchWord (op : Opcode) : Word := header op.number 0 0

/-- `OPC`, bits 31:24 of a header (30_encoding.md R101). -/
def opcField (h : Word) : BitVec 8 := h.extractLsb' 24 8

/-- `A`, bits 23:16 of a header (30_encoding.md R101). -/
def aField (h : Word) : BitVec 8 := h.extractLsb' 16 8

/-- Bits 15:0: `IMM` of a header, `x` of a point word, `w` of a size word (R101, R109). -/
def lowHalf (v : Word) : Half := v.extractLsb' 0 16

/-- Bits 31:16: `y` of a point word, `h` of a size word (30_encoding.md R109). -/
def highHalf (v : Word) : Half := v.extractLsb' 16 16

/-- A point word `{y, x}` or a size word `{h, w}` (30_encoding.md R109). -/
def pairWord (high low : Half) : Word := high ++ low

/-- How many operand words follow a header (30_encoding.md R102), given the words after it; none while
a BLIT's size word has not arrived. -/
def operandCount (f : Format) (h : Word) (after : List Word) : Option Nat :=
  match f with
  | .z | .i | .c | .cZero => some 0
  | .cw1 | .v => some 1
  | .cw2 | .p => some 2
  | .l | .r => some 3
  | .b =>
    match after with
    | _ :: size :: _ => some (2 + (lowHalf size).toNat * (highHalf size).toNat)
    | _ => none
  | .t => some (2 + ((lowHalf h).toNat + 3) / 4)

/-- The four character codes of a character word, the first in bits 7:0 (30_encoding.md R111). -/
def charsOfWord (v : Word) : List CharCode :=
  [v.extractLsb' 0 8, v.extractLsb' 8 8, v.extractLsb' 16 8, v.extractLsb' 24 8]

/-- The first `len` character codes of the character words; later bits are ignored (R111, R118). -/
def unpackChars (len : Nat) (ws : List Word) : List CharCode :=
  (ws.flatMap charsOfWord).take len

/-- Character words of a list of codes, unused bits 0 (30_encoding.md R111). -/
def packChars : List CharCode → List Word
  | [] => []
  | [a] => [(0 : BitVec 8) ++ (0 : BitVec 8) ++ (0 : BitVec 8) ++ a]
  | [a, b] => [(0 : BitVec 8) ++ (0 : BitVec 8) ++ b ++ a]
  | [a, b, c] => [(0 : BitVec 8) ++ c ++ b ++ a]
  | a :: b :: c :: d :: rest => (d ++ c ++ b ++ a) :: packChars rest

/-- The command an opcode, its header and its operand words make (30_encoding.md R106 to R112); none if
the number of operand words is not the one `operandCount` gives. -/
def assemble (op : Opcode) (h : Word) (ops : List Word) : Option Instr :=
  match op with
  | .back => some .back
  | .swap => some .swap
  | .pset =>
    match ops with
    | [p, colour] => some (.pset (lowHalf p) (highHalf p) colour)
    | _ => none
  | .line =>
    match ops with
    | [p, q, colour] => some (.line (lowHalf p) (highHalf p) (lowHalf q) (highHalf q) colour)
    | _ => none
  | .rect =>
    match ops with
    | [p, size, colour] =>
      some (.rect (lowHalf p) (highHalf p) (lowHalf size) (highHalf size) colour)
    | _ => none
  | .blit =>
    match ops with
    | p :: size :: data =>
      some (.blit (lowHalf p) (highHalf p) (lowHalf size) (highHalf size) data)
    | _ => none
  | .text =>
    match ops with
    | p :: colour :: cs =>
      some (.text (lowHalf p) (highHalf p) colour (unpackChars (lowHalf h).toNat cs))
    | _ => none
  | .dcomp => some .dcomp
  | .dwait => some .dwait
  | .dtry => some .dtry
  | .dclr => some .dclr
  | .dreset => some .dreset
  | .chwave => some (.chwave (aField h) (lowHalf h))
  | .chvol => some (.chvol (aField h) (lowHalf h))
  | .chfreq =>
    match ops with
    | [v] => some (.chfreq (aField h) v)
    | _ => none
  | .chpos =>
    match ops with
    | [v] => some (.chpos (aField h) v)
    | _ => none
  | .chstart => some (.chstart (aField h))
  | .chstop => some (.chstop (aField h))
  | .chloop => some (.chloop (aField h) (lowHalf h))
  | .chtable =>
    match ops with
    | [base, len] => some (.chtable (aField h) base len)
    | _ => none
  | .mixt => some .mixt
  | .mixd => some (.mixd (lowHalf h))
  | .mixw => some (.mixw (lowHalf h))
  | .insample => some .insample
  | .run => some .run
  | .cbret =>
    match ops with
    | [v] => some (.cbret v)
    | _ => none
  | .panic => some .panic
  | .rdreg => some (.rdreg (lowHalf h))

/-- Why the decoder rejects a command (30_encoding.md R117 cases 1 and 2). -/
inductive Rejection where
  /-- OPC is in the reserved space of R116. -/
  | reservedOpcode (opc : BitVec 8)
  /-- A reserved header field is not 0. -/
  | reservedField (opc : BitVec 8)
  /-- The operand words do not fit the format; `assemble_isSome` (Laws/Decode.lean) shows that it
  never happens. -/
  | operandWords (opc : BitVec 8)
  deriving DecidableEq, Repr

/-- The verdict on the words waiting at the port, with the words left over. -/
inductive Decoded where
  /-- One command, all its words taken. -/
  | command (i : Instr) (rest : List Word)
  /-- `Illegal`, with the words of that command taken (R102, R117). -/
  | illegal (why : Rejection) (rest : List Word)
  /-- The command's words have not all been written yet. -/
  | incomplete
  deriving DecidableEq, Repr

/-- Take one command from the words written to `CMD`: total on every word sequence (30_encoding.md
R103). A reserved opcode is a one-word command (R116); a reserved field is judged after all operand
words have been taken (R117). -/
def decode : List Word → Decoded
  | [] => .incomplete
  | h :: after =>
    match Opcode.ofNumber (opcField h) with
    | none => .illegal (.reservedOpcode (opcField h)) after
    | some op =>
      match operandCount op.format h after with
      | none => .incomplete
      | some n =>
        if after.length < n then .incomplete
        else if h &&& op.format.mask ≠ op.matchWord then
          .illegal (.reservedField (opcField h)) (after.drop n)
        else
          match assemble op h (after.take n) with
          | some i => .command i (after.drop n)
          | none => .illegal (.operandWords (opcField h)) (after.drop n)

/-- The row of 30_encoding.md R115 a command belongs to. -/
def Instr.opcode : Instr → Opcode
  | .back => .back
  | .swap => .swap
  | .pset _ _ _ => .pset
  | .line _ _ _ _ _ => .line
  | .rect _ _ _ _ _ => .rect
  | .blit _ _ _ _ _ => .blit
  | .text _ _ _ _ => .text
  | .dcomp => .dcomp
  | .dwait => .dwait
  | .dtry => .dtry
  | .dclr => .dclr
  | .dreset => .dreset
  | .chwave _ _ => .chwave
  | .chvol _ _ => .chvol
  | .chfreq _ _ => .chfreq
  | .chpos _ _ => .chpos
  | .chstart _ => .chstart
  | .chstop _ => .chstop
  | .chloop _ _ => .chloop
  | .chtable _ _ _ => .chtable
  | .mixt => .mixt
  | .mixd _ => .mixd
  | .mixw _ => .mixw
  | .insample => .insample
  | .run => .run
  | .cbret _ => .cbret
  | .panic => .panic
  | .rdreg _ => .rdreg

/-- The `A` field of a command's header: the channel number in the channel formats, else 0 (R101). -/
def Instr.aBits : Instr → BitVec 8
  | .chwave ch _ | .chvol ch _ | .chfreq ch _ | .chpos ch _ => ch
  | .chstart ch | .chstop ch | .chloop ch _ | .chtable ch _ _ => ch
  | .back | .swap | .pset _ _ _ | .line _ _ _ _ _ | .rect _ _ _ _ _ | .blit _ _ _ _ _ => 0
  | .text _ _ _ _ | .dcomp | .dwait | .dtry | .dclr | .dreset | .mixt | .mixd _ | .mixw _ => 0
  | .insample | .run | .cbret _ | .panic | .rdreg _ => 0

/-- The `IMM` field of a command's header (30_encoding.md R107, R108, R111), else 0. -/
def Instr.immBits : Instr → Half
  | .chwave _ kind => kind
  | .chvol _ vol => vol
  | .chloop _ flag => flag
  | .mixd n | .mixw n | .rdreg n => n
  | .text _ _ _ chars => BitVec.ofNat 16 chars.length
  | .back | .swap | .pset _ _ _ | .line _ _ _ _ _ | .rect _ _ _ _ _ | .blit _ _ _ _ _ => 0
  | .dcomp | .dwait | .dtry | .dclr | .dreset | .chfreq _ _ | .chpos _ _ | .chstart _ => 0
  | .chstop _ | .chtable _ _ _ | .mixt | .insample | .run | .cbret _ | .panic => 0

/-- The operand words of a command (30_encoding.md R106 to R112). -/
def Instr.operandWords : Instr → List Word
  | .pset x y colour => [pairWord y x, colour]
  | .line x0 y0 x1 y1 colour => [pairWord y0 x0, pairWord y1 x1, colour]
  | .rect x y w h colour => [pairWord y x, pairWord h w, colour]
  | .blit x y w h data => pairWord y x :: pairWord h w :: data
  | .text x y colour chars => pairWord y x :: colour :: packChars chars
  | .chfreq _ step => [step]
  | .chpos _ pos => [pos]
  | .chtable _ base len => [base, len]
  | .cbret v => [v]
  | .back | .swap | .dcomp | .dwait | .dtry | .dclr | .dreset => []
  | .chwave _ _ | .chvol _ _ | .chstart _ | .chstop _ | .chloop _ _ => []
  | .mixt | .mixd _ | .mixw _ | .insample | .run | .panic | .rdreg _ => []

/-- The words HOST writes to `CMD` for a command: header, then operand words (30_encoding.md R100). -/
def encode (i : Instr) : List Word :=
  header i.opcode.number i.aBits i.immBits :: i.operandWords

/-- The words of a bit string of `nbits` bits, numbered as spec/opcode_table.json numbers them: bit 0
is the least significant bit of the first word. -/
def wordsOfBits (nbits w : Nat) : List Word :=
  (List.range ((nbits + 31) / 32)).map fun k => BitVec.ofNat 32 (w >>> (32 * k))

/-- A word sequence filled up with zero words to the length its header asks for (30_encoding.md R102). -/
def padOperands (ws : List Word) : List Word :=
  match ws with
  | [] => []
  | h :: after =>
    match Opcode.ofNumber (opcField h) with
    | none => ws
    | some op =>
      match operandCount op.format h (after ++ [0, 0]) with
      | none => ws
      | some n => ws ++ List.replicate (n - after.length) 0

/-- The instruction the decoder reads from a table word and zero operand words; none where it
refuses. -/
def decodeTableWord (nbits w : Nat) : Option Instr :=
  match decode (padOperands (wordsOfBits nbits w)) with
  | .command i _ => some i
  | .illegal _ _ => none
  | .incomplete => none

end Sys2Proof
end

