-- ==== Sys2Proof/Config.lean ====
section
/-! DEFINITION. The implementation parameters of 00_scope.md R5 as one record of plain data, the free
values of 93_implementation_defined.md U1 and U2, and the configuration `State.reset` uses. What the
parameters mean (derived sizes, constraints, the functions the override tables stand for) is in
Machine/Operands.lean. -/

namespace Sys2Proof

/-- The four tone shapes of a channel (10_state.md R34). -/
inductive Tone where
  | square
  | saw
  | triangle
  | noise
  deriving DecidableEq, Repr

/-- The waveform kind of a channel: a tone shape or raw sample playback (10_state.md R34). -/
inductive Kind where
  | tone (t : Tone)
  | sample
  deriving DecidableEq, Repr

/-- The parameters of 00_scope.md R5. Every OPEN function is total on a finite domain and is held as a
finite table of the places where it differs from the spec's default, so that the record is plain data
and still covers every such function (DESIGN CHOICE, log 1). -/
structure Config where
  /-- `FB_W`, frame width in pixels. -/
  fbW : Nat
  /-- `FB_H`, frame height in pixels. -/
  fbH : Nat
  /-- `PIXEL_BITS`, bits per pixel. -/
  pixelBits : Nat
  /-- `Wire`: the pixels whose wire word is not the pixel itself. -/
  wireTable : List (Word × Word)
  /-- `N_CH`, number of audio channels. -/
  nCh : Nat
  /-- `WaveFn`: the arguments at which it differs from the default of 42_audio.md R184. -/
  waveTable : List ((Tone × Word × BitVec 16) × Sample)
  /-- The noise generator's advance, "part of `WaveFn`" (10_state.md R41): the states at which it
  differs from the default of 42_audio.md R185. -/
  lfsrTable : List (BitVec 16 × BitVec 16)
  /-- `Q_CAP`, capacity of the sample queue. -/
  qCap : Nat
  /-- `SMP_SIZE`, entries of the sample-table memory. -/
  smpSize : Nat
  /-- `SMP_INIT`, contents of the sample-table memory at launch; an unlisted entry is 0. -/
  smpInit : Memory 16
  /-- `SAMPLE_RATE`, rate of SCLK; no rule reads it. -/
  sampleRate : Nat
  /-- `N_BTN`, number of button lines. -/
  nBtn : Nat
  /-- `DB_WIN`, debounce window in consecutive samples. -/
  dbWin : Nat
  /-- `REFRESH`, rate of VSYNC; no rule reads it. -/
  refresh : Nat
  /-- `T_UNIT`, duration of one TB unit; no rule reads it. -/
  tUnit : Nat
  /-- `FRAME_PERIOD`, target tick period in TB units. -/
  framePeriod : Nat
  /-- `PACE_EN`, whether WaitingForVsync paces to `FRAME_PERIOD`. -/
  paceEn : Bool
  /-- `XFER_TIMEOUT`, transfer timeout in TB units. -/
  xferTimeout : Nat
  /-- `SWAP_BLOCK`, whether SWAP blocks instead of answering NotReady. -/
  swapBlock : Bool
  /-- `LinePixels`: the end points `(x0, y0, x1, y1)` at which it differs from the default of
  40_framebuffer.md R137, with the points it gives there. -/
  lineTable : List ((Int × Int × Int × Int) × List (Int × Int))
  /-- `GLYPH_W`, width of a font cell. -/
  glyphW : Nat
  /-- `GLYPH_H`, height of a font cell. -/
  glyphH : Nat
  /-- `Glyph`: the inked cell positions of the character codes listed. -/
  font : List (CharCode × List (Nat × Nat))
  /-- `Glyph`: the inked cell positions of every character code that `font` does not list. -/
  fontElse : List (Nat × Nat)
  deriving DecidableEq, Repr

/-- FREE VALUE (93_implementation_defined.md U1, log 6): what element `i` of `FB[k]` holds from power-on
until something writes it. No body: nothing can be proved of its values. -/
opaque Config.powerOnPixel (k : Bool) (i : Nat) : Word

/-- FREE VALUE (93_implementation_defined.md U2, log 7): what element `i` of `Q` holds from power-on
until something writes it. No body. -/
opaque Config.powerOnSample (i : Nat) : Sample

/-- The test configuration of 95_test_vectors.md section 0, with DB_WIN = 1, which the section leaves to
each vector. `State.reset` holds it (DESIGN CHOICE, log 1): the spec fixes no value of any OPEN
parameter, and no statement rests on these. -/
def Config.testBench : Config where
  fbW := 4
  fbH := 3
  pixelBits := 16
  wireTable := []
  nCh := 4
  waveTable := []
  lfsrTable := []
  qCap := 4
  smpSize := 12
  smpInit := [(0, 10), (1, 20), (2, 30), (3, -5), (4, 30000), (5, 20000), (6, -25000), (7, 3),
    (8, 2), (9, -3), (10, -32768), (11, 32767)]
  sampleRate := 0
  nBtn := 2
  dbWin := 1
  refresh := 0
  tUnit := 0
  framePeriod := 0
  paceEn := false
  xferTimeout := 100
  swapBlock := false
  lineTable := []
  glyphW := 1
  glyphH := 1
  font := []
  fontElse := [(0, 0)]

end Sys2Proof
end

