-- ==== Sys2Proof/Machine/State.lean ====
section
/-! DEFINITION. The engine context of 10_state.md R20 as one record of plain data, the reasons a step can
stop, and the state after power-on reset (70_reset_and_hazards.md R300 to R308). -/

namespace Sys2Proof.Machine

/-- `DSTATE` (10_state.md R24). -/
inductive DState where
  | idle
  | armed
  | active
  deriving DecidableEq, Repr

/-- `PHASE` (10_state.md R52). -/
inductive Phase where
  | idle
  | sampling
  | updating
  | drawing
  | presenting
  | waitingForVsync
  deriving DecidableEq, Repr

/-- `CBREQ` (10_state.md R53). -/
inductive CbReq where
  | none
  | init
  | update
  | draw
  deriving DecidableEq, Repr

/-- Condition codes (30_encoding.md R105). -/
inductive Cond where
  | ok
  | notReady
  | hardwareFault
  | bufferOverrun
  | inputReadFailure
  | illegal
  deriving DecidableEq, Repr

/-- A response on `RSP` (30_encoding.md R104). -/
structure Response where
  cond : Cond
  val : BitVec 64
  deriving DecidableEq, Repr

/-- An element of the PANEL stream: the start-of-frame marker or a wire word (00_scope.md R9). -/
inductive PanelItem where
  | sof
  | word (v : Word)
  deriving DecidableEq, Repr

/-- What moves next (00_scope.md R11): a step of HOST or SCHED, an event ENV produces (with the DMAD or
DMAA step it enables), a D_WORD step of DMAD, or ENV changing an input level (R8). -/
inductive Event where
  /-- HOST: issue the next command, or go on with the one under way. -/
  | host
  /-- SCHED: the scheduler step the present phase enables (R240, R243, R245, R246). -/
  | sched
  /-- VSYNC: D_BEGIN (R160). -/
  | vsync
  /-- DMAD: D_WORD (R161). -/
  | dword
  /-- SCLK: A_DRAIN (R198). -/
  | sclk
  /-- TB: one timebase unit (R163). -/
  | tb
  /-- ENV sets PANEL_ACK. -/
  | panelAck (level : Bool)
  /-- ENV sets BTN_RAW. -/
  | btnRaw (levels : BitVec 32)
  /-- ENV sets BTN_VALID. -/
  | btnValid (level : Bool)
  deriving DecidableEq, Repr

/-- The HOST command under way between two steps, with `MX_LEFT` and `MX_DROP` (10_state.md R47), which
"exist only between that command's first and last step". -/
inductive Job where
  /-- SWAP holding under SWAP_BLOCK = 1 (R132). -/
  | swap
  /-- DWAIT holding (R152). -/
  | dwait
  /-- MIXT: the `k` it answers, MX_LEFT (R193). -/
  | mixt (k left : Word)
  /-- MIXD: MX_LEFT, MX_DROP (R194). -/
  | mixd (left drop : Word)
  /-- MIXW: the `n` it answers, MX_LEFT (R195). -/
  | mixw (n left : Word)
  deriving DecidableEq, Repr

/-- FBC (10_state.md R21, R22). -/
structure Fbc where
  /-- `FB[0]`; an unlisted element has not been written since power-on. -/
  fb0 : Memory 32
  /-- `FB[1]`. -/
  fb1 : Memory 32
  /-- `FRONT`, false for 0. -/
  front : Bool
  deriving DecidableEq, Repr

/-- DOS (10_state.md R24 to R32). -/
structure Dos where
  /-- `DSTATE`. -/
  dstate : DState
  /-- `XDONE`. -/
  xdone : Bool
  /-- `FAULT`. -/
  fault : Bool
  /-- `D_SEL`, false for 0. -/
  dsel : Bool
  /-- `D_BYTES`. -/
  dbytes : BitVec 32
  /-- `D_IDX`. -/
  didx : BitVec 32
  /-- `TMO_CNT`. -/
  tmoCnt : BitVec 32
  deriving DecidableEq, Repr

/-- One audio channel (10_state.md R33 to R42). -/
structure Channel where
  /-- `KIND`. -/
  kind : Kind
  /-- `ACTIVE`. -/
  active : Bool
  /-- `LOOP`. -/
  loop : Bool
  /-- `VOL`. -/
  vol : BitVec 9
  /-- `STEP`. -/
  step : BitVec 32
  /-- `POS0`. -/
  pos0 : BitVec 32
  /-- `CUR`. -/
  cur : BitVec 32
  /-- `LFSR`. -/
  lfsr : BitVec 16
  /-- `TBASE`. -/
  tbase : BitVec 32
  /-- `TLEN`. -/
  tlen : BitVec 32
  deriving DecidableEq, Repr

/-- MIX (10_state.md R33 to R46, 20_memory.md R73). -/
structure Mix where
  /-- The channel file, channel `c` at position `c`. -/
  chans : List Channel
  /-- `SMP`; an unlisted entry is 0. -/
  smp : Memory 16
  /-- `Q`; an unlisted element has not been written since power-on. -/
  q : Memory 16
  /-- `Q_WR`. -/
  qWr : BitVec 32
  /-- `Q_RD`. -/
  qRd : BitVec 32
  /-- `PCM_OUT`. -/
  pcmOut : Sample
  deriving DecidableEq, Repr

/-- INP (10_state.md R48 to R50); bits at and above N_BTN of the vectors are 0. -/
structure Inp where
  /-- `IN_LEVEL`. -/
  level : BitVec 32
  /-- `IN_PRESS`. -/
  press : BitVec 32
  /-- `IN_REL`. -/
  rel : BitVec 32
  /-- `DB_CNT[b]` at position `b`. -/
  dbCnt : List (BitVec 16)
  deriving DecidableEq, Repr

/-- FTS (10_state.md R52 to R57). -/
structure Fts where
  /-- `PHASE`. -/
  phase : Phase
  /-- `CBREQ`. -/
  cbreq : CbReq
  /-- `TICK`. -/
  tick : BitVec 64
  /-- `T_START`. -/
  tStart : BitVec 64
  /-- `ELAPSED`. -/
  elapsed : BitVec 64
  /-- `GCTL`. -/
  gctl : BitVec 32
  /-- `TOPUP_N`. -/
  topupN : BitVec 32
  deriving DecidableEq, Repr

/-- System state (10_state.md R58 to R60). -/
structure Sys where
  /-- `TIME`. -/
  time : BitVec 64
  /-- `STICKY`: bit 0 HWFAULT, bit 1 OVERRUN, bit 2 INFAIL. -/
  sticky : BitVec 3
  /-- `HALTED`. -/
  halted : Bool
  deriving DecidableEq, Repr

/-- The input levels (00_scope.md R8), as ENV last set them. -/
structure Env where
  /-- `PANEL_ACK`. -/
  panelAck : Bool
  /-- `BTN_RAW`; bits at and above N_BTN are not lines of the block. -/
  btnRaw : BitVec 32
  /-- `BTN_VALID`. -/
  btnValid : Bool
  deriving DecidableEq, Repr

/-- The output streams (00_scope.md R9), oldest element first. -/
structure Out where
  /-- `PANEL`. -/
  panel : List PanelItem
  /-- `PCM`. -/
  pcm : List Sample
  /-- `RSP`. -/
  rsp : List Response
  deriving DecidableEq, Repr

/-- The command port as HOST drives it (30_encoding.md R100, log 3). -/
structure Port where
  /-- The words HOST is going to write to `CMD`, in order. -/
  cmd : List Word
  /-- The command under way, if one is. -/
  job : Option Job
  deriving DecidableEq, Repr

/-- The engine context (10_state.md R20), with the configuration it was built for, the outside world's
levels and streams, and the order in which the agents move. -/
structure State where
  cfg : Config
  fbc : Fbc
  dos : Dos
  mix : Mix
  inp : Inp
  fts : Fts
  sys : Sys
  env : Env
  out : Out
  port : Port
  /-- Which agent moves next, first entry first; HOST when it is empty (log 2). -/
  agenda : List Event
  deriving DecidableEq, Repr

/-- Preconditions of 00_scope.md R7 and 42_audio.md R191 broken. Each can arise only in a state no run
reaches (Safety.lean's invariant excludes it); stopping is safe. -/
inductive Fault where
  /-- D_WORD with D_IDX outside FB: MemRead outside its space (R7). Safe. -/
  | frameIndexOutOfRange
  /-- TableSample with TBASE + CUR outside SMP: MemRead outside its space (R7, R78). Safe. -/
  | sampleIndexOutOfRange
  /-- A sample-step of MIXT that finds the queue full: the precondition of Enqueue (R191, R193). Safe. -/
  | enqueueOnFullQueue
  deriving DecidableEq, Repr

/-- What the model gives no meaning. -/
inductive Refusal where
  /-- An instruction without a meaning in the model, named by its mnemonic; no arm of `exec` answers it
  any more. Safe. -/
  | notModelled (mnemonic : String)
  /-- Raised by `step`: a parameter outside the constraint of 00_scope.md R5, which
  93_implementation_defined.md U4 treats as `refuse`. Safe. -/
  | configOutOfRange
  /-- Raised by the TB step and by S_NEXT: TIME or TICK would reach 2^64, which
  93_implementation_defined.md U9 treats as `refuse`. Safe. -/
  | counterWrap
  deriving DecidableEq, Repr

/-- A channel after reset (70_reset_and_hazards.md R303). -/
def Channel.reset : Channel where
  kind := .tone .square
  active := false
  loop := false
  vol := 0
  step := 0
  pos0 := 0
  cur := 0
  lfsr := 1
  tbase := 0
  tlen := 0

/-- The state after power-on reset of a block built for the configuration `c`
(70_reset_and_hazards.md R300 to R308). The input levels are DESIGN CHOICE (log 5): the spec gives
inputs no reset value (R309). -/
def State.resetFor (c : Config) : State where
  cfg := c
  fbc := { fb0 := [], fb1 := [], front := false }
  dos := { dstate := .idle, xdone := false, fault := false, dsel := false, dbytes := 0, didx := 0,
           tmoCnt := 0 }
  mix := { chans := List.replicate c.nCh Channel.reset, smp := c.smpInit, q := [], qWr := 0, qRd := 0,
           pcmOut := 0 }
  inp := { level := 0, press := 0, rel := 0, dbCnt := List.replicate c.nBtn 0 }
  fts := { phase := .idle, cbreq := .none, tick := 0, tStart := 0, elapsed := 0, gctl := 0,
           topupN := 0 }
  sys := { time := 0, sticky := 0, halted := false }
  env := { panelAck := true, btnRaw := 0, btnValid := true }
  out := { panel := [], pcm := [], rsp := [] }
  port := { cmd := [], job := none }
  agenda := []

/-- The machine right after reset, for the configuration of 95_test_vectors.md section 0 (log 1). -/
def State.reset : State := State.resetFor Config.testBench

/-- The outcome of a step of this machine. -/
abbrev Result := Host.Outcome State Fault Refusal

end Sys2Proof.Machine
end

