-- ==== Sys2Proof/Machine/Operands.lean ====
section
/-! DEFINITION. The operand forms: derived sizes and constraints of the parameters (00_scope.md R5), the
OPEN functions as their override tables over the spec's defaults, coordinates, colours, clipping, and
the fixed-point arithmetic of the mixer. -/

namespace Sys2Proof

/-- `N_PIX` (00_scope.md R5). -/
def Config.nPix (c : Config) : Nat := c.fbW * c.fbH

/-- `PIXEL_BYTES` = ceil(PIXEL_BITS / 8) (00_scope.md R5). -/
def Config.pixelBytes (c : Config) : Nat := (c.pixelBits + 7) / 8

/-- `FRAME_BYTES` (00_scope.md R5). -/
def Config.frameBytes (c : Config) : Nat := c.nPix * c.pixelBytes

/-- A colour truncated to PIXEL_BITS bits (30_encoding.md R113, 20_memory.md R79). -/
def Config.pixel (c : Config) (v : Word) : Word := BitVec.ofNat 32 (v.toNat % 2 ^ c.pixelBits)

/-- `Wire` (00_scope.md R5): the identity but where the table says otherwise; a wire word has PIXEL_BITS
bits (20_memory.md R77). -/
def Config.wire (c : Config) (p : Word) : Word := c.pixel ((c.wireTable.lookup p).getD p)

/-- The default waveforms (42_audio.md R184). -/
def waveDefault (t : Tone) (p : Word) (l : BitVec 16) : Sample :=
  let u : Int := (p >>> 16).toNat
  match t with
  | .square => if p.getLsbD 31 then BitVec.ofInt 16 (-32767) else BitVec.ofInt 16 32767
  | .saw => BitVec.ofInt 16 (u - 32768)
  | .triangle =>
    if u < 32768 then BitVec.ofInt 16 (2 * u - 32768) else BitVec.ofInt 16 (98303 - 2 * u)
  | .noise => if l.getLsbD 0 then BitVec.ofInt 16 32767 else BitVec.ofInt 16 (-32767)

/-- `WaveFn` (00_scope.md R5, 42_audio.md R184). -/
def Config.waveFn (c : Config) (t : Tone) (p : Word) (l : BitVec 16) : Sample :=
  (c.waveTable.lookup (t, p, l)).getD (waveDefault t p l)

/-- The default noise generator (42_audio.md R185; the spec took it from general knowledge, G2). -/
def lfsrDefault (l : BitVec 16) : BitVec 16 :=
  if l.getLsbD 0 then (l >>> 1) ^^^ 0xB400 else l >>> 1

/-- `LfsrStep`, part of WaveFn (10_state.md R41, 42_audio.md R185). -/
def Config.lfsrStep (c : Config) (l : BitVec 16) : BitVec 16 :=
  (c.lfsrTable.lookup l).getD (lfsrDefault l)

/-- The loop of 40_framebuffer.md R137, at most `fuel` points. -/
def bresenham (x1 y1 dx dy sx sy : Int) : (fuel : Nat) → (err x y : Int) → List (Int × Int)
  | 0, _, _, _ => []
  | fuel + 1, err, x, y =>
    if x = x1 ∧ y = y1 then [(x, y)]
    else
      let right := dy ≤ 2 * err
      let down := 2 * err ≤ dx
      (x, y) :: bresenham x1 y1 dx dy sx sy fuel
        (err + (if right then dy else 0) + (if down then dx else 0))
        (if right then x + sx else x) (if down then y + sy else y)

/-- The default `LinePixels` (40_framebuffer.md R137; the spec took it from general knowledge, G1). -/
def lineDefault (x0 y0 x1 y1 : Int) : List (Int × Int) :=
  let dx : Int := (x1 - x0).natAbs
  let dy : Int := -(y1 - y0).natAbs
  bresenham x1 y1 dx dy (if x0 < x1 then 1 else -1) (if y0 < y1 then 1 else -1)
    (max (x1 - x0).natAbs (y1 - y0).natAbs + 1) (dx + dy) x0 y0

/-- `LinePixels` (00_scope.md R5, 40_framebuffer.md R136). -/
def Config.linePixels (c : Config) (x0 y0 x1 y1 : Int) : List (Int × Int) :=
  (c.lineTable.lookup (x0, y0, x1, y1)).getD (lineDefault x0 y0 x1 y1)

/-- `Glyph` (00_scope.md R5, 40_framebuffer.md R140). -/
def Config.glyph (c : Config) (ch : CharCode) : List (Nat × Nat) :=
  (c.font.lookup ch).getD c.fontElse

/-- The inked positions lie in the font cell (40_framebuffer.md R140). -/
def Config.cellOk (c : Config) (cell : List (Nat × Nat)) : Bool :=
  cell.all fun p => decide (p.1 < c.glyphW) && decide (p.2 < c.glyphH)

/-- The constraint column of 00_scope.md R5 (and of 40_framebuffer.md R136 for LinePixels and R140 for
Glyph; SMP_INIT has its list form). -/
abbrev Config.Valid (c : Config) : Prop :=
  (1 ≤ c.fbW ∧ c.fbW ≤ 32767) ∧ (1 ≤ c.fbH ∧ c.fbH ≤ 32767) ∧
  (1 ≤ c.pixelBits ∧ c.pixelBits ≤ 32) ∧ c.frameBytes < 2 ^ 32 ∧
  (1 ≤ c.nCh ∧ c.nCh ≤ 256) ∧
  (c.qCap = 2 ^ c.qCap.log2 ∧ c.qCap ≤ 2 ^ 31) ∧
  c.smpSize < 2 ^ 32 ∧
  (c.smpInit.Pairwise (fun a b => a.1 < b.1) ∧
    c.smpInit.all (fun e => decide (e.1 < c.smpSize) && decide (e.2 ≠ 0)) = true) ∧
  (1 ≤ c.nBtn ∧ c.nBtn ≤ 32) ∧
  (1 ≤ c.dbWin ∧ c.dbWin < 2 ^ 16) ∧
  (1 ≤ c.xferTimeout ∧ c.xferTimeout < 2 ^ 32) ∧
  c.lineTable.all (fun e => e.2.contains (e.1.1, e.1.2.1) && e.2.contains (e.1.2.2.1, e.1.2.2.2)) = true ∧
  (1 ≤ c.glyphW ∧ c.glyphW ≤ 255) ∧ (1 ≤ c.glyphH ∧ c.glyphH ≤ 255) ∧
  (c.cellOk c.fontElse = true ∧ c.font.all (fun e => c.cellOk e.2) = true)

namespace Machine

/-- A coordinate operand, read as s16 (30_encoding.md R109). -/
def coord (v : Half) : Int := v.toInt

/-- The element a pixel position names (10_state.md R21), none outside the Frame: "out-of-range
coordinates are clipped" (20_memory.md R78). -/
def pixelIndex (c : Config) (x y : Int) : Option Nat :=
  if 0 ≤ x ∧ x < c.fbW ∧ 0 ≤ y ∧ y < c.fbH then some (y.toNat * c.fbW + x.toNat) else none

/-- `sat16` (00_scope.md R6, 42_audio.md R188). -/
def sat16 (a : Int) : Sample :=
  if 32767 < a then BitVec.ofInt 16 32767
  else if a < -32768 then BitVec.ofInt 16 (-32768)
  else BitVec.ofInt 16 a

/-- `acc >>a VOL_FRAC` with VOL_FRAC = 8: floor(acc / 256), one rounding toward minus infinity
(42_audio.md R187). -/
def scaleAcc (acc : Int) : Int := acc / 256

/-- The 32-bit vector whose bit `b` is `f b` for `b < n`, and 0 at and above `n`. -/
def bitsBelow (f : Nat → Bool) : Nat → BitVec 32
  | 0 => 0
  | n + 1 => bitsBelow f n ||| (if f n then BitVec.twoPow 32 n else 0)

/-- The waveform kind a CHWAVE operand names (42_audio.md R171); none above 4. -/
def kindOfNat (k : Nat) : Option Kind :=
  match k with
  | 0 => some (.tone .square)
  | 1 => some (.tone .saw)
  | 2 => some (.tone .triangle)
  | 3 => some (.tone .noise)
  | 4 => some .sample
  | _ => none

end Machine

end Sys2Proof
end

