-- ==== Sys2Proof/Machine/Flags.lean ====
section
/-! DEFINITION. The derived elements, the packed status views and the register map of RDREG (10_state.md
R25, R31, R45, R61, R62). The block has no arithmetic condition codes (R62). -/

namespace Sys2Proof.Machine

/-- `DSTATE` as its 2 bits (10_state.md R24). -/
def DState.code : DState → BitVec 2
  | .idle => 0
  | .armed => 1
  | .active => 2

/-- `PHASE` as its 3 bits (10_state.md R52). -/
def Phase.code : Phase → BitVec 3
  | .idle => 0
  | .sampling => 1
  | .updating => 2
  | .drawing => 3
  | .presenting => 4
  | .waitingForVsync => 5

/-- `CBREQ` as its 2 bits (10_state.md R53). -/
def CbReq.code : CbReq → BitVec 2
  | .none => 0
  | .init => 1
  | .update => 2
  | .draw => 3

/-- `KIND` as its 3 bits (10_state.md R34). -/
def kindCode : Kind → BitVec 3
  | .tone .square => 0
  | .tone .saw => 1
  | .tone .triangle => 2
  | .tone .noise => 3
  | .sample => 4

/-- The number of a condition (30_encoding.md R105). -/
def Cond.code : Cond → BitVec 8
  | .ok => 0x00
  | .notReady => 0x01
  | .hardwareFault => 0x02
  | .bufferOverrun => 0x03
  | .inputReadFailure => 0x04
  | .illegal => 0xFF

/-- `STICKY.HWFAULT` (10_state.md R59). -/
def stickyHwfault : BitVec 3 := 1

/-- `STICKY.OVERRUN` (10_state.md R59). -/
def stickyOverrun : BitVec 3 := 2

/-- `STICKY.INFAIL` (10_state.md R59). -/
def stickyInfail : BitVec 3 := 4

/-- `BUSY` (10_state.md R25). -/
def State.busy (s : State) : Bool := s.dos.dstate != .idle

/-- `D_REMAIN` = D_BYTES − D_IDX × PIXEL_BYTES (10_state.md R31). -/
def State.dRemain (s : State) : BitVec 32 :=
  BitVec.ofNat 32 (s.dos.dbytes.toNat - s.dos.didx.toNat * s.cfg.pixelBytes)

/-- `Q_COUNT` = (Q_WR − Q_RD) mod 2^32 (10_state.md R45). -/
def Mix.qCount (m : Mix) : BitVec 32 := m.qWr - m.qRd

/-- `Q_FREE` = Q_CAP − Q_COUNT (10_state.md R45). -/
def State.qFree (s : State) : Nat := s.cfg.qCap - s.mix.qCount.toNat

/-- The producer's capacity check fails: Q_COUNT is not below Q_CAP (42_audio.md R191). -/
def State.qFull (s : State) : Bool := decide (s.cfg.qCap ≤ s.mix.qCount.toNat)

/-- The output `irq_done` (00_scope.md R9, 60_exceptions.md R269). -/
def State.irqDone (s : State) : Bool := s.dos.xdone

/-- The output `irq_fault` (00_scope.md R9, 60_exceptions.md R270). -/
def State.irqFault (s : State) : Bool := s.dos.fault

/-- The output `CBREQ` (00_scope.md R9, 44_scheduler.md R231). -/
def State.cbreqOut (s : State) : BitVec 2 := s.fts.cbreq.code

/-- `STATUS` (10_state.md R62). -/
def State.status (s : State) : BitVec 13 :=
  s.fts.cbreq.code ++ s.fts.phase.code ++ BitVec.ofBool s.sys.halted ++ BitVec.ofBool s.dos.dsel ++
    BitVec.ofBool s.fbc.front ++ BitVec.ofBool s.dos.fault ++ BitVec.ofBool s.dos.xdone ++
    s.dos.dstate.code ++ BitVec.ofBool s.busy

/-- `CH_CTRL[c]` (10_state.md R62). -/
def Channel.ctrl (ch : Channel) : BitVec 5 :=
  BitVec.ofBool ch.loop ++ BitVec.ofBool ch.active ++ kindCode ch.kind

/-- The registers of a channel's block by offset (10_state.md R61); offsets 8 to 15 are not registers. -/
def Channel.reg (ch : Channel) (off : Nat) : Option (BitVec 64) :=
  match off with
  | 0 => some (ch.ctrl.setWidth 64)
  | 1 => some (ch.vol.setWidth 64)
  | 2 => some (ch.step.setWidth 64)
  | 3 => some (ch.pos0.setWidth 64)
  | 4 => some (ch.cur.setWidth 64)
  | 5 => some (ch.lfsr.setWidth 64)
  | 6 => some (ch.tbase.setWidth 64)
  | 7 => some (ch.tlen.setWidth 64)
  | _ => none

/-- The registers that are numbered neither by button nor by channel (10_state.md R61). -/
def State.fixedReg (s : State) (n : Nat) : Option (BitVec 64) :=
  match n with
  | 0x00 => some (s.status.setWidth 64)
  | 0x01 => some (s.sys.sticky.setWidth 64)
  | 0x02 => some s.fts.tick
  | 0x03 => some s.sys.time
  | 0x04 => some s.fts.elapsed
  | 0x05 => some s.fts.tStart
  | 0x06 => some (s.fts.gctl.setWidth 64)
  | 0x07 => some (s.fts.topupN.setWidth 64)
  | 0x10 => some (s.inp.level.setWidth 64)
  | 0x11 => some (s.inp.press.setWidth 64)
  | 0x12 => some (s.inp.rel.setWidth 64)
  | 0x20 => some (s.dos.dbytes.setWidth 64)
  | 0x21 => some (s.dos.didx.setWidth 64)
  | 0x22 => some (s.dRemain.setWidth 64)
  | 0x23 => some (s.dos.tmoCnt.setWidth 64)
  | 0x30 => some (s.mix.qWr.setWidth 64)
  | 0x31 => some (s.mix.qRd.setWidth 64)
  | 0x32 => some (s.mix.qCount.setWidth 64)
  | 0x33 => some (s.mix.pcmOut.signExtend 64)
  | _ => none

/-- `Reg(n)`: the register map (10_state.md R61, 44_scheduler.md R239); none where `n` is not a register
number of this configuration. -/
def State.reg (s : State) (n : Nat) : Option (BitVec 64) :=
  if 0x40 ≤ n ∧ n < 0x40 + s.cfg.nBtn then
    some (((s.inp.dbCnt[n - 0x40]?).getD 0).setWidth 64)
  else if 0x100 ≤ n ∧ n < 0x100 + 16 * s.cfg.nCh then
    ((s.mix.chans[(n - 0x100) / 16]?).getD Channel.reset).reg ((n - 0x100) % 16)
  else s.fixedReg n

end Sys2Proof.Machine
end

