-- ==== Sys2Proof/Machine/Ops.lean ====
section
/-! DEFINITION. The named operations over the memories, the frames, the channel file and the response
port; which commands are `Illegal`; and `DoSwap`. The block has no trap mechanism (60_exceptions.md R260,
R276): what a processor does on an exception is here a response with a condition (`raise`), and nothing
is saved or restored (R278). -/

namespace Sys2Proof

/-- The canonical form of a memory: indices strictly rising. An unlisted element is one that nothing has
written (or, in SMP, one that is 0), so no write ever removes an entry (log 8, log 9). -/
abbrev Memory.wf {w : Nat} (m : Memory w) : Prop := m.Pairwise fun a b => a.1 < b.1

/-- `MemRead(space, i)` (00_scope.md R7): the listed element, none where nothing is listed. -/
def Memory.read {w : Nat} (m : Memory w) (i : Nat) : Option (BitVec w) := m.lookup i

/-- `MemWrite(space, i, v)` (00_scope.md R7). -/
def Memory.write {w : Nat} : Memory w → Nat → BitVec w → Memory w
  | [], i, v => [(i, v)]
  | (j, u) :: rest, i, v =>
    if i < j then (i, v) :: (j, u) :: rest
    else if i = j then (i, v) :: rest
    else (j, u) :: Memory.write rest i v

namespace Machine

/-! ### Frames -/

/-- `FB[k]` (10_state.md R21). -/
def Fbc.frame (f : Fbc) (k : Bool) : Memory 32 := if k then f.fb1 else f.fb0

/-- `FB[k]` replaced. -/
def Fbc.setFrame (f : Fbc) (k : Bool) (m : Memory 32) : Fbc :=
  if k then { f with fb1 := m } else { f with fb0 := m }

/-- The index of the back Frame, `1 − FRONT` (10_state.md R22). -/
def Fbc.back (f : Fbc) : Bool := !f.front

/-- What element `i` of `FB[k]` holds: what was last written, or its free power-on value
(93_implementation_defined.md U1). -/
def State.framePixel (s : State) (k : Bool) (i : Nat) : Word :=
  ((s.fbc.frame k).read i).getD (s.cfg.pixel (Config.powerOnPixel k i))

/-- `Plot(x, y, c)` (40_framebuffer.md R134): the clipped write into the back Frame. -/
def plot (c : Config) (f : Fbc) (x y : Int) (colour : Word) : Fbc :=
  match pixelIndex c x y with
  | some i => f.setFrame f.back ((f.frame f.back).write i (c.pixel colour))
  | none => f

/-- A sequence of Plot calls, in order (40_framebuffer.md R134). -/
def plotAll (c : Config) (points : List (Int × Int × Word)) (f : Fbc) : Fbc :=
  points.foldl (fun f p => plot c f p.1 p.2.1 p.2.2) f

/-! ### Sample memories -/

/-- An entry of SMP (20_memory.md R73). -/
def Mix.smpAt (m : Mix) (i : Nat) : Sample := (m.smp.read i).getD 0

/-- What element `i` of Q holds: what was last written, or its free power-on value
(93_implementation_defined.md U2). -/
def Mix.qAt (m : Mix) (i : Nat) : Sample := (m.q.read i).getD (Config.powerOnSample i)

/-! ### The channel file -/

/-- One channel's fields changed, every other channel kept (10_state.md R33). -/
def State.modifyChan (s : State) (ch : BitVec 8) (f : Channel → Channel) : State :=
  { s with mix := { s.mix with chans := s.mix.chans.modify ch.toNat f } }

/-! ### The response port -/

/-- A response appended to RSP (30_encoding.md R104). -/
def State.respond (s : State) (c : Cond) (v : BitVec 64) : State :=
  { s with out := { s.out with rsp := s.out.rsp ++ [⟨c, v⟩] } }

/-- `done(v)` (00_scope.md R7). -/
def done (v : BitVec 64) (s : State) : Result := .next (s.respond .ok v)

/-- `raise C(v)` (00_scope.md R7): the command ends with a condition; no control transfer, nothing saved
(60_exceptions.md R260, R276). -/
def raise (c : Cond) (v : BitVec 64) (s : State) : Result := .next (s.respond c v)

/-- The HOST command under way, set or cleared. -/
def State.setJob (s : State) (j : Option Job) : State := { s with port := { s.port with job := j } }

/-- The words left on the port. -/
def State.setCmd (s : State) (ws : List Word) : State := { s with port := { s.port with cmd := ws } }

/-- The end of a command that was under way over several steps. -/
def endJob (c : Cond) (v : BitVec 64) (s : State) : Result := raise c v (s.setJob none)

/-- A bit of STICKY set; no operation clears one (10_state.md R59). -/
def State.setSticky (s : State) (b : BitVec 3) : State :=
  { s with sys := { s.sys with sticky := s.sys.sticky ||| b } }

/-! ### Legality -/

/-- Cases 3 to 5 of 30_encoding.md R117 (44_scheduler.md R247, R248): channel number, operand range,
scheduler state. -/
def legal (i : Instr) (s : State) : Bool :=
  match i with
  | .swap | .insample => s.fts.phase == .idle
  | .run => s.fts.phase == .idle && s.fts.cbreq == .none
  | .cbret _ => s.fts.cbreq != .none
  | .chwave ch kind => decide (ch.toNat < s.cfg.nCh) && decide (kind.toNat ≤ 4)
  | .chvol ch vol => decide (ch.toNat < s.cfg.nCh) && decide (vol.toNat ≤ 256)
  | .chloop ch flag => decide (ch.toNat < s.cfg.nCh) && decide (flag.toNat ≤ 1)
  | .chtable ch base len =>
    decide (ch.toNat < s.cfg.nCh) && decide (base.toNat + len.toNat ≤ s.cfg.smpSize)
  | .chfreq ch _ | .chpos ch _ | .chstart ch | .chstop ch => decide (ch.toNat < s.cfg.nCh)
  | .rdreg n => (s.reg n.toNat).isSome
  | .back | .pset _ _ _ | .line _ _ _ _ _ | .rect _ _ _ _ _ | .blit _ _ _ _ _ | .text _ _ _ _ => true
  | .dcomp | .dwait | .dtry | .dclr | .dreset | .mixt | .mixd _ | .mixw _ | .panic => true

/-- What every command does before its own rule: nothing and no response while HALTED = 1
(60_exceptions.md R266); else the response (`Illegal`, 0) and no state change when it is not legal
(30_encoding.md R117); else its rule (40_framebuffer.md R130). -/
def command (i : Instr) (s : State) (run : State → Result) : Result :=
  if s.sys.halted then .next s
  else if legal i s then run s
  else raise .illegal 0 s

/-! ### The swap -/

/-- `DoSwap()` (40_framebuffer.md R132), shared by SWAP and S_PRESENT. -/
def doSwap (s : State) : State :=
  { s with
    fbc := { s.fbc with front := s.fbc.back }
    dos := { s.dos with
      dsel := s.fbc.back
      dbytes := BitVec.ofNat 32 s.cfg.frameBytes
      didx := 0
      tmoCnt := 0
      xdone := false
      dstate := .armed } }

/-- The index of the back Frame as a response value, `1 − FRONT` (40_framebuffer.md R131). -/
def State.backVal (s : State) : BitVec 64 := (BitVec.ofBool s.fbc.back).setWidth 64

/-- The end of a SWAP that may succeed (40_framebuffer.md R132): `DoSwap(); done(1 − FRONT)`. -/
def swapAndAnswer (s : State) : Result := done (doSwap s).backVal (doSwap s)

end Machine

end Sys2Proof
end

