-- ==== Sys2Proof/Machine/Display.lean ====
section
/-! DEFINITION. DOS: DCOMP, DWAIT, DTRY, DCLR, DRESET, the steps of the transfer engine and the timebase
step (41_display.md). -/

namespace Sys2Proof.Machine

/-- DCOMP (41_display.md R151). -/
def execDcomp (s : State) : Result :=
  command .dcomp s fun s =>
    done (if s.dos.dstate = .idle ∧ s.dos.fault = false then 1 else 0) s

/-- DWAIT (41_display.md R152): it ends at once with DSTATE = IDLE, else it holds (`continueDwait`). -/
def execDwait (s : State) : Result :=
  command .dwait s fun s =>
    if s.dos.dstate = .idle then
      if s.dos.fault then raise .hardwareFault 0 s else done 0 s
    else .next (s.setJob (some .dwait))

/-- DTRY (41_display.md R153): NotReady first. -/
def execDtry (s : State) : Result :=
  command .dtry s fun s =>
    if s.dos.dstate ≠ .idle then raise .notReady 0 s
    else if s.dos.fault then raise .hardwareFault 0 s
    else done 0 s

/-- DCLR (41_display.md R158). -/
def execDclr (s : State) : Result :=
  command .dclr s fun s => done 0 { s with dos := { s.dos with fault := false } }

/-- DRESET (41_display.md R159). -/
def execDreset (s : State) : Result :=
  command .dreset s fun s =>
    done 0 { s with dos := { s.dos with
      dstate := .idle, xdone := false, fault := false, dbytes := 0, didx := 0, tmoCnt := 0 } }

/-- The step of a DWAIT that holds (41_display.md R152). -/
def continueDwait (s : State) : Result :=
  if s.dos.dstate = .idle then
    if s.dos.fault then endJob .hardwareFault 0 s else endJob .ok 0 s
  else .next s

/-- An element appended to the PANEL stream (00_scope.md R7). -/
def State.emitPanel (s : State) (x : PanelItem) : State :=
  { s with out := { s.out with panel := s.out.panel ++ [x] } }

/-- D_BEGIN, on a VSYNC event (41_display.md R160); an event that finds nothing armed is lost. -/
def dBegin (s : State) : State :=
  if s.sys.halted = false ∧ s.dos.dstate = .armed then
    ({ s with dos := { s.dos with dstate := .active } }).emitPanel .sof
  else s

/-- When D_WORD is enabled (41_display.md R161). -/
def dWordEnabled (s : State) : Bool :=
  !s.sys.halted && s.dos.dstate == .active && s.env.panelAck &&
    decide (s.dos.didx.toNat * s.cfg.pixelBytes < s.dos.dbytes.toNat)

/-- The register part of D_WORD: D_IDX advances, and the step that reaches D_BYTES completes the
transfer (41_display.md R161, R162). -/
def dWordCount (c : Config) (d : Dos) : Dos :=
  let next := d.didx.toNat + 1
  if next * c.pixelBytes = d.dbytes.toNat then
    { d with didx := BitVec.ofNat 32 next, dstate := .idle, xdone := true }
  else { d with didx := BitVec.ofNat 32 next }

/-- D_WORD (41_display.md R161): one pixel of the front Frame leaves as one wire word. -/
def dWord (s : State) : Result :=
  if dWordEnabled s then
    if s.dos.didx.toNat < s.cfg.nPix then
      let w := s.cfg.wire (s.framePixel s.dos.dsel s.dos.didx.toNat)
      .next (({ s with dos := dWordCount s.cfg s.dos }).emitPanel (.word w))
    else .fault .frameIndexOutOfRange
  else .next s

/-- The transfer timeout of the TB step (41_display.md R163). -/
def countTimeout (s : State) : State :=
  if s.sys.halted = false ∧ s.dos.dstate ≠ .idle then
    let n := s.dos.tmoCnt.toNat + 1
    let s := { s with dos := { s.dos with tmoCnt := BitVec.ofNat 32 n } }
    if s.cfg.xferTimeout ≤ n then
      ({ s with dos := { s.dos with dstate := .idle, fault := true } }).setSticky stickyHwfault
    else s
  else s

/-- TB (41_display.md R163): TIME advances, also while HALTED; the timeout counts. A TIME that would
reach 2^64 is outside the model (93_implementation_defined.md U9, log 17). -/
def tbStep (s : State) : Result :=
  if s.sys.time.toNat + 1 < 2 ^ 64 then
    .next (countTimeout { s with sys := { s.sys with time := s.sys.time + 1 } })
  else .refused .counterWrap

end Sys2Proof.Machine
end

