-- ==== Sys2Proof/Machine/Framebuffer.lean ====
section
/-! DEFINITION. FBC: BACK, SWAP, PSET, LINE, RECT, BLIT, TEXT (40_framebuffer.md). Every drawing command
is one atomic step over a list of Plot calls (20_memory.md R80). -/

namespace Sys2Proof.Machine

/-- The Plot calls of a filled w × h rectangle (40_framebuffer.md R138), row by row; the sums are
integers, not wrapped. -/
def rectPoints (x y : Int) (w h : Nat) (colour : Word) : List (Int × Int × Word) :=
  (List.range h).flatMap fun (j : Nat) =>
    (List.range w).map fun (i : Nat) => (x + (i : Int), y + (j : Int), colour)

/-- The Plot calls of a w × h block of data words in row-major order (40_framebuffer.md R139). -/
def blitPoints (x y : Int) (w h : Nat) (data : List Word) : List (Int × Int × Word) :=
  (List.range h).flatMap fun (j : Nat) =>
    (List.range w).map fun (i : Nat) => (x + (i : Int), y + (j : Int), data.getD (j * w + i) 0)

/-- The Plot calls of a line (40_framebuffer.md R136). -/
def linePoints (c : Config) (x0 y0 x1 y1 : Int) (colour : Word) : List (Int × Int × Word) :=
  (c.linePixels x0 y0 x1 y1).map fun p => (p.1, p.2, colour)

/-- The Plot calls of a text, the pen starting at `x` and moving GLYPH_W to the right per character
(40_framebuffer.md R140). -/
def textPoints (c : Config) (x y : Int) (colour : Word) : List CharCode → List (Int × Int × Word)
  | [] => []
  | ch :: rest =>
    ((c.glyph ch).map fun (p : Nat × Nat) => (x + (p.1 : Int), y + (p.2 : Int), colour)) ++
      textPoints c (x + c.glyphW) y colour rest

/-- A drawing command: its Plot calls, then `done(0)`. -/
def draw (points : List (Int × Int × Word)) (s : State) : Result :=
  done 0 { s with fbc := plotAll s.cfg points s.fbc }

/-- BACK (40_framebuffer.md R131). -/
def execBack (s : State) : Result :=
  command .back s fun s => done s.backVal s

/-- SWAP (40_framebuffer.md R132): HardwareFault before NotReady; with SWAP_BLOCK = 1 a swap that finds
a transfer in flight holds (`continueSwap` in Agents.lean goes on with it). -/
def execSwap (s : State) : Result :=
  command .swap s fun s =>
    if s.dos.fault then raise .hardwareFault 0 s
    else if s.dos.dstate = .idle then swapAndAnswer s
    else if s.cfg.swapBlock then .next (s.setJob (some .swap))
    else raise .notReady 0 s

/-- PSET (40_framebuffer.md R135). -/
def execPset (x y : Half) (colour : Word) (s : State) : Result :=
  command (.pset x y colour) s (draw [(coord x, coord y, colour)])

/-- LINE (40_framebuffer.md R136). -/
def execLine (x0 y0 x1 y1 : Half) (colour : Word) (s : State) : Result :=
  command (.line x0 y0 x1 y1 colour) s
    (draw (linePoints s.cfg (coord x0) (coord y0) (coord x1) (coord y1) colour))

/-- RECT (40_framebuffer.md R138). -/
def execRect (x y w h : Half) (colour : Word) (s : State) : Result :=
  command (.rect x y w h colour) s (draw (rectPoints (coord x) (coord y) w.toNat h.toNat colour))

/-- BLIT (40_framebuffer.md R139). -/
def execBlit (x y w h : Half) (data : List Word) (s : State) : Result :=
  command (.blit x y w h data) s (draw (blitPoints (coord x) (coord y) w.toNat h.toNat data))

/-- TEXT (40_framebuffer.md R140). -/
def execText (x y : Half) (colour : Word) (chars : List CharCode) (s : State) : Result :=
  command (.text x y colour chars) s (draw (textPoints s.cfg (coord x) (coord y) colour chars))

/-- The step of a SWAP that holds (40_framebuffer.md R132): it goes on when DSTATE = IDLE. -/
def continueSwap (s : State) : Result :=
  if s.dos.dstate = .idle then
    if s.dos.fault then endJob .hardwareFault 0 s else swapAndAnswer (s.setJob none)
  else .next s

end Sys2Proof.Machine
end

