-- ==== Sys2Proof/Machine/Audio.lean ====
section
/-! DEFINITION. MIX: the channel control commands, the mixer, the production commands MIXT, MIXD, MIXW
and the audio consumer (42_audio.md). -/

namespace Sys2Proof.Machine

/-! ### Control commands -/

/-- CHWAVE (42_audio.md R171); CUR is kept. -/
def execChwave (ch : BitVec 8) (kind : Half) (s : State) : Result :=
  command (.chwave ch kind) s fun s =>
    match kindOfNat kind.toNat with
    | some k => done 0 (s.modifyChan ch fun c => { c with kind := k })
    | none => raise .illegal 0 s

/-- CHVOL (42_audio.md R172). -/
def execChvol (ch : BitVec 8) (vol : Half) (s : State) : Result :=
  command (.chvol ch vol) s fun s =>
    done 0 (s.modifyChan ch fun c => { c with vol := vol.setWidth 9 })

/-- CHFREQ (42_audio.md R173). -/
def execChfreq (ch : BitVec 8) (step : Word) (s : State) : Result :=
  command (.chfreq ch step) s fun s => done 0 (s.modifyChan ch fun c => { c with step := step })

/-- CHPOS (42_audio.md R174): the start position, never the running cursor. -/
def execChpos (ch : BitVec 8) (pos : Word) (s : State) : Result :=
  command (.chpos ch pos) s fun s => done 0 (s.modifyChan ch fun c => { c with pos0 := pos })

/-- CHSTART (42_audio.md R175). -/
def execChstart (ch : BitVec 8) (s : State) : Result :=
  command (.chstart ch) s fun s =>
    done 0 (s.modifyChan ch fun c => { c with cur := c.pos0, lfsr := 1, active := true })

/-- CHSTOP (42_audio.md R176). -/
def execChstop (ch : BitVec 8) (s : State) : Result :=
  command (.chstop ch) s fun s => done 0 (s.modifyChan ch fun c => { c with active := false })

/-- CHLOOP (42_audio.md R178). -/
def execChloop (ch : BitVec 8) (flag : Half) (s : State) : Result :=
  command (.chloop ch flag) s fun s =>
    done 0 (s.modifyChan ch fun c => { c with loop := flag.getLsbD 0 })

/-- CHTABLE (42_audio.md R177); CUR is kept. -/
def execChtable (ch : BitVec 8) (base len : Word) (s : State) : Result :=
  command (.chtable ch base len) s fun s =>
    done 0 (s.modifyChan ch fun c => { c with tbase := base, tlen := len })

/-! ### The mixer -/

/-- `ToneSample(c)` (42_audio.md R182): the value at the present phase, then one step of phase; the noise
generator advances when the phase wraps. -/
def toneSample (c : Config) (t : Tone) (ch : Channel) : Sample × Channel :=
  let n := ch.cur.toNat + ch.step.toNat
  (c.waveFn t ch.cur ch.lfsr,
    { ch with
      cur := BitVec.ofNat 32 n
      lfsr := if t = .noise ∧ 2 ^ 32 ≤ n then c.lfsrStep ch.lfsr else ch.lfsr })

/-- The read cursor's advance after a table entry has played (42_audio.md R183). -/
def tableAdvance (ch : Channel) : Channel :=
  if ch.cur.toNat + 1 = ch.tlen.toNat then
    if ch.loop then { ch with cur := 0 }
    else { ch with cur := BitVec.ofNat 32 (ch.cur.toNat + 1), active := false }
  else { ch with cur := BitVec.ofNat 32 (ch.cur.toNat + 1) }

/-- `TableSample(c)` (42_audio.md R183); none for a table entry outside SMP, which CHTABLE's bound
excludes (20_memory.md R78, log 16). -/
def tableSample (c : Config) (m : Mix) (ch : Channel) : Option (Sample × Channel) :=
  if ch.tlen.toNat ≤ ch.cur.toNat then some (0, { ch with active := false })
  else if ch.tbase.toNat + ch.cur.toNat < c.smpSize then
    some (m.smpAt (ch.tbase.toNat + ch.cur.toNat), tableAdvance ch)
  else none

/-- `ChanSample(c)` of an active channel (42_audio.md R181). -/
def chanSample (c : Config) (m : Mix) (ch : Channel) : Option (Sample × Channel) :=
  match ch.kind with
  | .tone t => some (toneSample c t ch)
  | .sample => tableSample c m ch

/-- What a channel adds to the accumulator and what it becomes (42_audio.md R180): nothing and itself
when it is inactive. -/
def chanTerm (c : Config) (m : Mix) (ch : Channel) : Option (Int × Channel) :=
  if ch.active then (chanSample c m ch).map fun r => (r.1.toInt * ch.vol.toNat, r.2)
  else some (0, ch)

/-- The accumulator over a channel file, an exact integer, and the channel file after it
(42_audio.md R180, R186). -/
def mixTerms (c : Config) (m : Mix) : List Channel → Option (Int × List Channel)
  | [] => some (0, [])
  | ch :: rest =>
    match chanTerm c m ch, mixTerms c m rest with
    | some (a, ch'), some (b, rest') => some (a + b, ch' :: rest')
    | _, _ => none

/-- `MixOne()` (42_audio.md R180): one scaling, one rounding, one saturation, after the whole sum
(R187, R188). -/
def mixOne (c : Config) (m : Mix) : Option (Sample × Mix) :=
  (mixTerms c m m.chans).map fun r => (sat16 (scaleAcc r.1), { m with chans := r.2 })

/-- `Enqueue(s)` (42_audio.md R191); every caller has checked Q_COUNT < Q_CAP. -/
def enqueue (c : Config) (v : Sample) (m : Mix) : Mix :=
  { m with q := m.q.write (m.qWr.toNat % c.qCap) v, qWr := m.qWr + 1 }

/-- A sample-step: `MixOne()`, then what its caller does with the sample (42_audio.md R192). -/
def withSample (s : State) (use : Sample → State → Result) : Result :=
  match mixOne s.cfg s.mix with
  | some (v, m) => use v { s with mix := m }
  | none => .fault .sampleIndexOutOfRange

/-- The sample put into the queue. -/
def State.push (s : State) (v : Sample) : State := { s with mix := enqueue s.cfg v s.mix }

/-! ### Production commands -/

/-- MIXT with MX_LEFT = `left`: `done(k)` at 0, else under way (42_audio.md R193). -/
def mixtLoop (k left : Word) (s : State) : Result :=
  if left = 0 then endJob .ok (k.setWidth 64) s else .next (s.setJob (some (.mixt k left)))

/-- MIXD with MX_LEFT = `left`, MX_DROP = `drop` (42_audio.md R194): at 0 the response, BufferOverrun with
the count when a sample was dropped. -/
def mixdLoop (left drop : Word) (s : State) : Result :=
  if left = 0 then
    if drop = 0 then endJob .ok 0 s else endJob .bufferOverrun (drop.setWidth 64) s
  else .next (s.setJob (some (.mixd left drop)))

/-- MIXW with MX_LEFT = `left`: `done(n)` at 0, else under way (42_audio.md R195). -/
def mixwLoop (n left : Word) (s : State) : Result :=
  if left = 0 then endJob .ok (n.setWidth 64) s else .next (s.setJob (some (.mixw n left)))

/-- MIXT, its first step: Q_FREE is read once (42_audio.md R193). -/
def execMixt (s : State) : Result :=
  command .mixt s fun s => mixtLoop (BitVec.ofNat 32 s.qFree) (BitVec.ofNat 32 s.qFree) s

/-- MIXD, its first step (42_audio.md R194). -/
def execMixd (n : Half) (s : State) : Result :=
  command (.mixd n) s (mixdLoop (n.setWidth 32) 0)

/-- MIXW, its first step (42_audio.md R195). -/
def execMixw (n : Half) (s : State) : Result :=
  command (.mixw n) s (mixwLoop (n.setWidth 32) (n.setWidth 32))

/-- A sample-step of MIXT (42_audio.md R193): every Enqueue finds room. -/
def continueMixt (k left : Word) (s : State) : Result :=
  if left = 0 then mixtLoop k left s
  else if s.qFull then .fault .enqueueOnFullQueue
  else withSample s fun v s => mixtLoop k (left - 1) (s.push v)

/-- A sample-step of MIXD (42_audio.md R194): a sample that finds the queue full is dropped. -/
def continueMixd (left drop : Word) (s : State) : Result :=
  if left = 0 then mixdLoop left drop s
  else withSample s fun v s =>
    if s.qFull then mixdLoop (left - 1) (drop + 1) (s.setSticky stickyOverrun)
    else mixdLoop (left - 1) drop (s.push v)

/-- A sample-step of MIXW (42_audio.md R195): it holds while the queue is full. -/
def continueMixw (n left : Word) (s : State) : Result :=
  if left = 0 then mixwLoop n left s
  else if s.qFull then .next s
  else withSample s fun v s => mixwLoop n (left - 1) (s.push v)

/-! ### The consumer -/

/-- The registers after A_DRAIN (42_audio.md R198): the oldest sample, or silence and the cursors kept. -/
def drain (c : Config) (m : Mix) : Mix :=
  if m.qCount = 0 then { m with pcmOut := 0 }
  else { m with pcmOut := m.qAt (m.qRd.toNat % c.qCap), qRd := m.qRd + 1 }

/-- A_DRAIN, on an SCLK event (42_audio.md R198). -/
def aDrain (s : State) : State :=
  if s.sys.halted then s
  else
    { s with
      mix := drain s.cfg s.mix
      out := { s.out with pcm := s.out.pcm ++ [(drain s.cfg s.mix).pcmOut] } }

end Sys2Proof.Machine
end

