-- ==== Sys2Proof/Machine/Input.lean ====
section
/-! DEFINITION. INP: the sampling operation and INSAMPLE (43_input.md). -/

namespace Sys2Proof.Machine

/-- `DB_CNT[b]` before the sample. -/
def Inp.count (p : Inp) (b : Nat) : Nat := ((p.dbCnt[b]?).getD 0).toNat

/-- The raw state of button `b` differs from its logical state (43_input.md R211). -/
def Inp.differs (p : Inp) (raw : BitVec 32) (b : Nat) : Bool := raw.getLsbD b != p.level.getLsbD b

/-- The logical state of button `b` flips: the count reaches DB_WIN (43_input.md R211). -/
def Inp.flips (p : Inp) (win : Nat) (raw : BitVec 32) (b : Nat) : Bool :=
  p.differs raw b && decide (win ≤ p.count b + 1)

/-- `DB_CNT[b]` after the sample (43_input.md R211). -/
def Inp.nextCount (p : Inp) (win : Nat) (raw : BitVec 32) (b : Nat) : BitVec 16 :=
  if p.differs raw b && !p.flips win raw b then BitVec.ofNat 16 (p.count b + 1) else 0

/-- A sample of valid lines (43_input.md R211): the three snapshot vectors and the counters, together. -/
def Inp.sampled (p : Inp) (c : Config) (raw : BitVec 32) : Inp :=
  let new := p.level ^^^ bitsBelow (p.flips c.dbWin raw) c.nBtn
  { level := new
    press := new &&& ~~~p.level
    rel := ~~~new &&& p.level
    dbCnt := (List.range c.nBtn).map (p.nextCount c.dbWin raw) }

/-- `Sample()` (43_input.md R211): a failed read publishes "no change", keeps the counters and sets
STICKY.INFAIL (R216). It fails exactly when BTN_VALID = 0. -/
def sampleInputs (s : State) : State :=
  if s.env.btnValid then { s with inp := s.inp.sampled s.cfg s.env.btnRaw }
  else ({ s with inp := { s.inp with press := 0, rel := 0 } }).setSticky stickyInfail

/-- INSAMPLE (43_input.md R212). -/
def execInsample (s : State) : Result :=
  command .insample s fun s =>
    let t := sampleInputs s
    if s.env.btnValid then done (t.inp.level.setWidth 64) t
    else raise .inputReadFailure (t.inp.level.setWidth 64) t

end Sys2Proof.Machine
end

