-- ==== Sys2Proof/Machine/Scheduler.lean ====
section
/-! DEFINITION. FTS: RUN, CBRET, PANIC, the register read RDREG and the scheduler steps S_SAMPLE,
S_PRESENT, S_TOPUP, S_NEXT (44_scheduler.md). -/

namespace Sys2Proof.Machine

/-- RUN (44_scheduler.md R232): requests `init`; PHASE stays Idle. -/
def execRun (s : State) : Result :=
  command .run s fun s => done 0 { s with fts := { s.fts with cbreq := .init } }

/-- What the return of a callback does to the FTS registers (44_scheduler.md R233). -/
def callbackReturned (v : Word) (f : Fts) : Fts :=
  match f.cbreq with
  | .none => f
  | .init => { f with cbreq := .none, phase := .sampling }
  | .update => { f with gctl := v, cbreq := .draw, phase := .drawing }
  | .draw => { f with cbreq := .none, phase := .presenting }

/-- CBRET (44_scheduler.md R233). -/
def execCbret (v : Word) (s : State) : Result :=
  command (.cbret v) s fun s => done 0 { s with fts := callbackReturned v s.fts }

/-- PANIC (44_scheduler.md R238): the last command that gets a response. -/
def execPanic (s : State) : Result :=
  command .panic s fun s => done 0 { s with sys := { s.sys with halted := true } }

/-- RDREG (44_scheduler.md R239). -/
def execRdreg (n : Half) (s : State) : Result :=
  command (.rdreg n) s fun s =>
    match s.reg n.toNat with
    | some v => done v s
    | none => raise .illegal 0 s

/-- S_SAMPLE (44_scheduler.md R240). -/
def sSample (s : State) : State :=
  let t := sampleInputs s
  { t with fts := { t.fts with
    elapsed := if t.fts.tick = 0 then 0 else t.sys.time - t.fts.tStart
    tStart := t.sys.time
    phase := .updating
    cbreq := .update } }

/-- When S_PRESENT is enabled, PHASE aside (44_scheduler.md R243). -/
def presentEnabled (s : State) : Bool := s.dos.dstate == .idle && !s.dos.fault

/-- S_PRESENT (44_scheduler.md R243). -/
def sPresent (s : State) : State :=
  let t := doSwap s
  { t with fts := { t.fts with topupN := BitVec.ofNat 32 t.qFree, phase := .waitingForVsync } }

/-- S_TOPUP (44_scheduler.md R245): one sample-step, or the end of the top-up when the queue is full. -/
def sTopup (s : State) : Result :=
  if s.qFull then .next { s with fts := { s.fts with topupN := 0 } }
  else withSample s fun v s =>
    let t := s.push v
    .next { t with fts := { t.fts with topupN := t.fts.topupN - 1 } }

/-- The pacing test of S_NEXT (44_scheduler.md R246): TIME − T_START ≥ FRAME_PERIOD unless PACE_EN = 0. -/
def paceOver (s : State) : Bool :=
  !s.cfg.paceEn || decide (s.fts.tStart.toNat + s.cfg.framePeriod ≤ s.sys.time.toNat)

/-- S_NEXT (44_scheduler.md R246). A TICK that would reach 2^64 is outside the model
(93_implementation_defined.md U9, log 17). -/
def sNext (s : State) : Result :=
  if s.fts.tick.toNat + 1 < 2 ^ 64 then
    .next { s with fts := { s.fts with tick := s.fts.tick + 1, phase := .sampling } }
  else .refused .counterWrap

/-- A turn of SCHED: the step the phase enables, if one is enabled (44_scheduler.md R240 to R246). SCHED
is the same context as HOST and makes no step inside a HOST command (00_scope.md R11). -/
def schedTurn (s : State) : Result :=
  if s.sys.halted || s.port.job.isSome then .next s
  else
    match s.fts.phase with
    | .idle | .updating | .drawing => .next s
    | .sampling => .next (sSample s)
    | .presenting => if presentEnabled s then .next (sPresent s) else .next s
    | .waitingForVsync =>
      if s.fts.topupN ≠ 0 then sTopup s
      else if paceOver s then sNext s
      else .next s

end Sys2Proof.Machine
end

