-- ==== Sys2Proof/Machine/Dispatch.lean ====
section
/-! DEFINITION. Which meaning each command has: one arm per constructor of `Instr`. -/

namespace Sys2Proof.Machine

def exec (i : Instr) (s : State) : Host.Outcome State Fault Refusal :=
  match i with
  -- FBC (40_framebuffer.md)
  | .back => Sys2Proof.Machine.execBack s
  | .swap => Sys2Proof.Machine.execSwap s
  | .pset x y colour => Sys2Proof.Machine.execPset x y colour s
  | .line x0 y0 x1 y1 colour => Sys2Proof.Machine.execLine x0 y0 x1 y1 colour s
  | .rect x y w h colour => Sys2Proof.Machine.execRect x y w h colour s
  | .blit x y w h data => Sys2Proof.Machine.execBlit x y w h data s
  | .text x y colour chars => Sys2Proof.Machine.execText x y colour chars s
  -- DOS (41_display.md)
  | .dcomp => Sys2Proof.Machine.execDcomp s
  | .dwait => Sys2Proof.Machine.execDwait s
  | .dtry => Sys2Proof.Machine.execDtry s
  | .dclr => Sys2Proof.Machine.execDclr s
  | .dreset => Sys2Proof.Machine.execDreset s
  -- MIX (42_audio.md)
  | .chwave ch kind => Sys2Proof.Machine.execChwave ch kind s
  | .chvol ch vol => Sys2Proof.Machine.execChvol ch vol s
  | .chfreq ch step => Sys2Proof.Machine.execChfreq ch step s
  | .chpos ch pos => Sys2Proof.Machine.execChpos ch pos s
  | .chstart ch => Sys2Proof.Machine.execChstart ch s
  | .chstop ch => Sys2Proof.Machine.execChstop ch s
  | .chloop ch flag => Sys2Proof.Machine.execChloop ch flag s
  | .chtable ch base len => Sys2Proof.Machine.execChtable ch base len s
  | .mixt => Sys2Proof.Machine.execMixt s
  | .mixd n => Sys2Proof.Machine.execMixd n s
  | .mixw n => Sys2Proof.Machine.execMixw n s
  -- INP (43_input.md)
  | .insample => Sys2Proof.Machine.execInsample s
  -- FTS and the register read (44_scheduler.md)
  | .run => Sys2Proof.Machine.execRun s
  | .cbret v => Sys2Proof.Machine.execCbret v s
  | .panic => Sys2Proof.Machine.execPanic s
  | .rdreg n => Sys2Proof.Machine.execRdreg n s

end Sys2Proof.Machine
end

