-- ==== Sys2Proof/Machine/Agents.lean ====
section
/-! DEFINITION. One turn of each agent (00_scope.md R11): HOST taking a command from the port or going on
with the one under way, SCHED, the events of ENV with the DMAD and DMAA steps they enable, and ENV
changing an input level. A turn that finds no step of its agent enabled changes nothing. -/

namespace Sys2Proof.Machine

/-- The next step of the HOST command under way. -/
def continueJob (j : Job) (s : State) : Result :=
  match j with
  | .swap => continueSwap s
  | .dwait => continueDwait s
  | .mixt k left => continueMixt k left s
  | .mixd left drop => continueMixd left drop s
  | .mixw n left => continueMixw n left s

/-- HOST issues the next command: its words are taken from the port and it is executed (30_encoding.md
R100 to R103); what the decoder rejects is answered (`Illegal`, 0) (R117 cases 1 and 2); a command whose
words have not all been written waits for them. -/
def issueCommand (s : State) : Result :=
  match decode s.port.cmd with
  | .command i rest => exec i (s.setCmd rest)
  | .illegal _ rest => raise .illegal 0 (s.setCmd rest)
  | .incomplete => .next s

/-- A turn of HOST. While HALTED = 1 a word written to `CMD` is lost and nothing is answered
(60_exceptions.md R266). -/
def hostTurn (s : State) : Result :=
  if s.sys.halted then .next (s.setCmd (s.port.cmd.drop 1))
  else
    match s.port.job with
    | some j => continueJob j s
    | none => issueCommand s

/-- The turn an event stands for. -/
def turn (e : Event) (s : State) : Result :=
  match e with
  | .host => hostTurn s
  | .sched => schedTurn s
  | .vsync => .next (dBegin s)
  | .dword => dWord s
  | .sclk => .next (aDrain s)
  | .tb => tbStep s
  | .panelAck level => .next { s with env := { s.env with panelAck := level } }
  | .btnRaw levels => .next { s with env := { s.env with btnRaw := levels } }
  | .btnValid level => .next { s with env := { s.env with btnValid := level } }

/-- Who moves next: the first entry of the agenda, HOST when it is empty (log 2). -/
def nextEvent (s : State) : Event := s.agenda.headD .host

/-- The agenda without the entry about to be served. -/
def popEvent (s : State) : State := { s with agenda := s.agenda.tail }

end Sys2Proof.Machine
end

