-- ==== Sys2Proof/Machine/Step.lean ====
section
/-! DEFINITION. One step of the machine: the turn of the agent the agenda names (00_scope.md R11,
20_memory.md R83), and where the next command is fetched from. -/

namespace Sys2Proof.Machine

/-- One atomic step. A parameter outside its constraint has no meaning (93_implementation_defined.md U4,
log 18). -/
def step (s : State) : Host.Outcome State Fault Refusal :=
  if s.cfg.Valid then turn (nextEvent s) (popEvent s) else .refused .configOutOfRange

/-- The command of a table word, with zero operand words, placed where the next step takes it: on the
port, with no command under way, HOST to move, and the block not halted (log 3). -/
def State.withFetchWord (s : State) (nbits w : Nat) : State :=
  { s with
    port := { cmd := padOperands (wordsOfBits nbits w), job := none }
    agenda := []
    sys := { s.sys with halted := false } }

end Sys2Proof.Machine
end

