-- ==== Sys2Proof/Safety.lean ====
section
/-! DEFINITION. What counts as a safe state and as an execution, and the terms in which claims about
several steps are written. -/

namespace Sys2Proof.Machine

/-! ### The invariant -/

/-- A Frame has its canonical form, and lists only elements of the Frame with PIXEL_BITS bits
(10_state.md R21). -/
def frameOk (c : Config) (m : Memory 32) : Prop :=
  m.wf ∧ ∀ e ∈ m, e.1 < c.nPix ∧ e.2.toNat < 2 ^ c.pixelBits

/-- FBC: both Frames as they should be. -/
def fbcOk (c : Config) (f : Fbc) : Prop := frameOk c f.fb0 ∧ frameOk c f.fb1

/-- DOS: D_REMAIN is never negative (10_state.md R31); FAULT = 1 implies IDLE (R27); while a transfer is
pending or in flight it reads the front Frame (41_display.md R161), its byte count is FRAME_BYTES, a word
is left to move, the timeout has not been reached and XDONE = 0; an ARMED transfer has moved nothing. -/
def dosOk (c : Config) (front : Bool) (d : Dos) : Prop :=
  d.didx.toNat * c.pixelBytes ≤ d.dbytes.toNat ∧
  (d.fault = true → d.dstate = .idle) ∧
  (d.dstate ≠ .idle →
    d.dsel = front ∧ d.dbytes.toNat = c.frameBytes ∧ d.didx.toNat < c.nPix ∧
    d.tmoCnt.toNat < c.xferTimeout ∧ d.xdone = false) ∧
  (d.dstate = .armed → d.didx = 0)

/-- One channel: VOL ≤ 256 (10_state.md R37), TBASE + TLEN ≤ SMP_SIZE (R42). -/
def chanOk (c : Config) (ch : Channel) : Prop :=
  ch.vol.toNat ≤ 256 ∧ ch.tbase.toNat + ch.tlen.toNat ≤ c.smpSize

/-- The element of Q at cursor distance `k` behind Q_RD (20_memory.md R72). -/
def Mix.slot (c : Config) (m : Mix) (k : Nat) : Nat :=
  (m.qRd + BitVec.ofNat 32 k).toNat % c.qCap

/-- MIX: the channel file has N_CH channels, each as it should be; SMP is the launch datum
(20_memory.md R73); Q has its canonical form inside its Q_CAP elements; 0 ≤ Q_COUNT ≤ Q_CAP (10_state.md
R45); and every queued element has been written (42_audio.md R197). -/
def mixOk (c : Config) (m : Mix) : Prop :=
  m.chans.length = c.nCh ∧ (∀ ch ∈ m.chans, chanOk c ch) ∧ m.smp = c.smpInit ∧
  (m.q.wf ∧ ∀ e ∈ m.q, e.1 < c.qCap) ∧ m.qCount.toNat ≤ c.qCap ∧
  ∀ k < m.qCount.toNat, (m.q.read (m.slot c k)).isSome = true

/-- INP: the vectors have N_BTN bits; every DB_CNT is below DB_WIN (10_state.md R49); the edge bits agree
with the level and exclude each other (43_input.md R215). -/
def inpOk (c : Config) (p : Inp) : Prop :=
  p.level.toNat < 2 ^ c.nBtn ∧ p.dbCnt.length = c.nBtn ∧ (∀ n ∈ p.dbCnt, n.toNat < c.dbWin) ∧
  p.press &&& p.level = p.press ∧ p.rel &&& p.level = 0 ∧ p.rel.toNat < 2 ^ c.nBtn

/-- FTS: which callback request goes with which phase (44_scheduler.md R233). -/
def ftsOk (f : Fts) : Prop :=
  match f.phase with
  | .idle => f.cbreq = .none ∨ f.cbreq = .init
  | .sampling => f.cbreq = .none
  | .updating => f.cbreq = .update
  | .drawing => f.cbreq = .draw
  | .presenting => f.cbreq = .none
  | .waitingForVsync => f.cbreq = .none

/-- The command under way: a SWAP holds only in Idle with SWAP_BLOCK = 1; a production command has
samples left, and MIXT finds room for all of them (42_audio.md R193). -/
def jobOk (s : State) : Prop :=
  match s.port.job with
  | none => True
  | some .swap => s.fts.phase = .idle ∧ s.cfg.swapBlock = true
  | some .dwait => True
  | some (.mixt k left) => left ≠ 0 ∧ left.toNat ≤ k.toNat ∧ left.toNat ≤ s.qFree
  | some (.mixd left drop) => left ≠ 0 ∧ left.toNat + drop.toNat < 2 ^ 16
  | some (.mixw n left) => left ≠ 0 ∧ left.toNat ≤ n.toNat

/-- What holds in every state an execution reaches. -/
structure StateInv (s : State) : Prop where
  cfg : s.cfg.Valid
  fbc : fbcOk s.cfg s.fbc
  dos : dosOk s.cfg s.fbc.front s.dos
  mix : mixOk s.cfg s.mix
  inp : inpOk s.cfg s.inp
  fts : ftsOk s.fts
  time : s.fts.tStart.toNat ≤ s.sys.time.toNat
  job : jobOk s

/-! ### Executions -/

/-- A block built for `c`, just reset, with the command words HOST is going to write, the order in which
the agents are going to move and the input levels given from outside. -/
def powerOn (c : Config) (words : List Word) (order : List Event) (levels : Env) : State :=
  { State.resetFor c with port := { cmd := words, job := none }, agenda := order, env := levels }

/-- The states of the executions of a block built for `c`: every command sequence, every interleaving,
every input (00_scope.md R11, 20_memory.md R83). -/
inductive Reachable (c : Config) : State → Prop where
  | start (words : List Word) (order : List Event) (levels : Env) :
      Reachable c (powerOn c words order levels)
  | next {s t : State} : Reachable c s → step s = .next t → Reachable c t

/-- The same event `n` times, stopping at the first fault or refusal. -/
def repeatTurn (e : Event) : Nat → State → Result
  | 0, s => .next s
  | n + 1, s =>
    match turn e s with
    | .next t => repeatTurn e n t
    | .fault f => .fault f
    | .refused r => .refused r

/-! ### Terms of claims -/

/-- The queued samples, oldest first (10_state.md R43 to R45). -/
def Mix.queued (c : Config) (m : Mix) : List Sample :=
  (List.range m.qCount.toNat).map fun k => m.qAt (m.slot c k)

/-- The colour the last of a sequence of Plot calls gives to element `i` of the back Frame, if one of
them reaches it (40_framebuffer.md R134). -/
def lastInk (c : Config) (points : List (Int × Int × Word)) (i : Nat) : Option Word :=
  (points.reverse.find? fun p => pixelIndex c p.1 p.2.1 == some i).map fun p => c.pixel p.2.2

/-- The pixels of `FB[k]` in transfer order (41_display.md R161). -/
def State.frameWords (s : State) (k : Bool) : List PanelItem :=
  (List.range s.cfg.nPix).map fun i => .word (s.cfg.wire (s.framePixel k i))

/-- The samples and the state of one channel over `n` produced samples, without its volume; none where a
table entry lies outside SMP (42_audio.md R180 to R183). An inactive channel gives 0 and stays. -/
def playChannel (c : Config) (m : Mix) : Nat → Channel → Option (List Sample × Channel)
  | 0, ch => some ([], ch)
  | n + 1, ch =>
    match if ch.active then chanSample c m ch else some (0, ch) with
    | none => none
    | some (v, ch') =>
      match playChannel c m n ch' with
      | none => none
      | some (vs, ch'') => some (v :: vs, ch'')

/-- `n` sample periods of the mixer: the samples in order, and the mixer after them; none where a table
entry lies outside SMP (42_audio.md R180, R192). -/
def mixTimes (c : Config) : Nat → Mix → Option (List Sample × Mix)
  | 0, m => some ([], m)
  | n + 1, m =>
    match mixOne c m with
    | none => none
    | some (v, m') =>
      match mixTimes c n m' with
      | none => none
      | some (vs, m'') => some (v :: vs, m'')

/-- Samples of valid button lines, one for each entry, in order (43_input.md R211). -/
def sampleSeq (c : Config) (raws : List (BitVec 32)) (p : Inp) : Inp :=
  raws.foldl (fun p raw => p.sampled c raw) p

/-- `n` samples of unchanging, valid button lines (43_input.md R211). -/
def sampleTimes (c : Config) (raw : BitVec 32) : Nat → Inp → Inp
  | 0, p => p
  | n + 1, p => sampleTimes c raw n (p.sampled c raw)

end Sys2Proof.Machine
end

