-- ==== Sys2Proof/Certificates/Slice0/Obligations.lean ====
section
/-! DEFINITION. The statements for the provers, one for each entry of OBLIGATIONS.json. -/

open Sys2Proof Sys2Proof.Machine

/-! ### Encoding and the step -/

/-- Encoding and decoding agree on every well-formed command with every operand (30_encoding.md R100 to
R115). -/
def Obligations.DecodeEncodeRoundTrip : Prop :=
  ∀ (i : Instr) (rest : List Word), i.wellFormed = true →
    decode (encode i ++ rest) = .command i rest

/-- What decodes is well formed, has the header it was decoded from, has taken exactly its operand words
(R102), and unless it is a TEXT (whose last word may hold ignored bits, R118) is encoded by the words
taken. -/
def Obligations.DecodedCommandReencodes : Prop :=
  ∀ (h : Word) (after : List Word) (i : Instr) (rest : List Word),
    decode (h :: after) = .command i rest →
      i.wellFormed = true ∧ (encode i).head? = some h ∧
      i.operandWords.length ≤ after.length ∧ rest = after.drop i.operandWords.length ∧
      ((∀ x y colour chars, i ≠ .text x y colour chars) →
        encode i = h :: after.take i.operandWords.length)

/-- Words of 95_test_vectors.md section 2.1: at least one for each unit and for each format. -/
def Obligations.SpecWordsDecodeToTheirCommands : Prop :=
  decode [0x02000000] = .command .swap [] ∧
  decode [0x03000000, 0x7FFF8000, 0x00000001] = .command (.pset 0x8000 0x7FFF 1) [] ∧
  decode [0x04000000, 0xFFFFFFFF, 0x00030004, 0x00000007] =
    .command (.line 0xFFFF 0xFFFF 4 3 7) [] ∧
  decode [0x05000000, 0x0001FFFF, 0x00050003, 0x00000009] = .command (.rect 0xFFFF 1 3 5 9) [] ∧
  decode [0x06000000, 0x00000003, 0x00020002, 1, 2, 3, 4] =
    .command (.blit 3 0 2 2 [1, 2, 3, 4]) [] ∧
  decode [0x07000005, 0x00010002, 0x00000006, 0x4C4C4548, 0xFFFFFF4F] =
    .command (.text 2 1 6 [0x48, 0x45, 0x4C, 0x4C, 0x4F]) [] ∧
  decode [0x12000000] = .command .dtry [] ∧
  decode [0x20010004] = .command (.chwave 1 4) [] ∧
  decode [0x22000000, 0x40000000] = .command (.chfreq 0 0x40000000) [] ∧
  decode [0x23010000, 0x00000064] = .command (.chpos 1 100) [] ∧
  decode [0x24020000] = .command (.chstart 2) [] ∧
  decode [0x27010000, 0x00000000, 0x00000003] = .command (.chtable 1 0 3) [] ∧
  decode [0x29000006] = .command (.mixd 6) [] ∧
  decode [0x30000000] = .command .insample [] ∧
  decode [0x41000000, 0x00000007] = .command (.cbret 7) [] ∧
  decode [0x50000105] = .command (.rdreg 0x0105) []

/-- 30_encoding.md R116 and R117 cases 1 and 2: the reserved opcode space; a header with a reserved OPC is
a one-word command, answered (`Illegal`, 0); a header whose reserved field is not 0 is answered so after its
operand words have been taken; nothing else changes. That HOST moves on an empty agenda is log 2, that the
words lie on the port log 3, that the operand words of a bad header are counted as those of a good one
log 12. -/
def Obligations.ReservedEncodingsAreIllegal : Prop :=
  (∀ n : BitVec 8, Opcode.ofNumber n = none ↔
    (n.toNat = 0x00 ∨ (0x08 ≤ n.toNat ∧ n.toNat ≤ 0x0F) ∨ (0x15 ≤ n.toNat ∧ n.toNat ≤ 0x1F) ∨
      (0x2B ≤ n.toNat ∧ n.toNat ≤ 0x2F) ∨ (0x31 ≤ n.toNat ∧ n.toNat ≤ 0x3F) ∨
      (0x43 ≤ n.toNat ∧ n.toNat ≤ 0x4F) ∨ 0x51 ≤ n.toNat)) ∧
  ∀ (s : State) (h : Word) (after : List Word), s.cfg.Valid → s.agenda = [] →
    s.sys.halted = false → s.port.job = none → s.port.cmd = h :: after →
    (Opcode.ofNumber (opcField h) = none →
      step s = .next ((s.setCmd after).respond .illegal 0)) ∧
    ∀ (op : Opcode) (n : Nat), Opcode.ofNumber (opcField h) = some op →
      operandCount op.format h after = some n → n ≤ after.length →
      ((op.format ∈ [Format.z, .i, .p, .l, .r, .b, .t, .v] ∧ aField h ≠ 0) ∨
        (op.format ∈ [Format.z, .cZero, .cw1, .cw2, .p, .l, .r, .b, .v] ∧ lowHalf h ≠ 0)) →
      step s = .next ((s.setCmd (after.drop n)).respond .illegal 0)

/-- A step of HOST with no command under way runs the command its words decode to, after taking the
agenda entry and the words (the agenda is log 2, the port log 3). -/
def Obligations.StepRunsDecodedCommand : Prop :=
  ∀ (s : State) (i : Instr) (rest : List Word), s.cfg.Valid →
    (s.agenda = [] ∨ ∃ order, s.agenda = .host :: order) → s.sys.halted = false →
    s.port.job = none → decode s.port.cmd = .command i rest →
    step s = exec i { s with agenda := s.agenda.tail, port := { cmd := rest, job := none } }

/-- 30_encoding.md R117 cases 3 and 4: a channel number or an operand out of range is answered
(`Illegal`, 0) and changes nothing. -/
def Obligations.OutOfRangeOperandIsIllegal : Prop :=
  ∀ (s : State), s.sys.halted = false →
    (∀ ch : BitVec 8, s.cfg.nCh ≤ ch.toNat → ∀ (h : Half) (v w : Word),
      exec (.chwave ch h) s = .next (s.respond .illegal 0) ∧
      exec (.chvol ch h) s = .next (s.respond .illegal 0) ∧
      exec (.chfreq ch v) s = .next (s.respond .illegal 0) ∧
      exec (.chpos ch v) s = .next (s.respond .illegal 0) ∧
      exec (.chstart ch) s = .next (s.respond .illegal 0) ∧
      exec (.chstop ch) s = .next (s.respond .illegal 0) ∧
      exec (.chloop ch h) s = .next (s.respond .illegal 0) ∧
      exec (.chtable ch v w) s = .next (s.respond .illegal 0)) ∧
    (∀ (ch : BitVec 8) (k : Half), 4 < k.toNat →
      exec (.chwave ch k) s = .next (s.respond .illegal 0)) ∧
    (∀ (ch : BitVec 8) (v : Half), 256 < v.toNat →
      exec (.chvol ch v) s = .next (s.respond .illegal 0)) ∧
    (∀ (ch : BitVec 8) (f : Half), 1 < f.toNat →
      exec (.chloop ch f) s = .next (s.respond .illegal 0)) ∧
    (∀ (ch : BitVec 8) (b l : Word), s.cfg.smpSize < b.toNat + l.toNat →
      exec (.chtable ch b l) s = .next (s.respond .illegal 0)) ∧
    ∀ n : Half, s.reg n.toNat = none → exec (.rdreg n) s = .next (s.respond .illegal 0)

/-- 44_scheduler.md R247: what the scheduler state refuses is answered (`Illegal`, 0) and changes
nothing. -/
def Obligations.DisallowedPhaseIsIllegal : Prop :=
  ∀ (s : State), s.sys.halted = false →
    (s.fts.phase ≠ .idle →
      exec .swap s = .next (s.respond .illegal 0) ∧
      exec .insample s = .next (s.respond .illegal 0)) ∧
    (s.fts.phase ≠ .idle ∨ s.fts.cbreq ≠ .none → exec .run s = .next (s.respond .illegal 0)) ∧
    (s.fts.cbreq = .none → ∀ v : Word, exec (.cbret v) s = .next (s.respond .illegal 0))

/-- 60_exceptions.md R276: a command that answers NotReady, HardwareFault or Illegal has changed no
state; its value is 0. -/
def Obligations.FailedCommandChangesNoState : Prop :=
  ∀ (i : Instr) (s t : State) (c : Cond) (v : BitVec 64), exec i s = .next t →
    t.out.rsp = s.out.rsp ++ [⟨c, v⟩] →
    (c = .notReady ∨ c = .hardwareFault ∨ c = .illegal) → t = s.respond c 0

/-! ### FBC -/

/-- BACK (40_framebuffer.md R131). -/
def Obligations.BackAnswersTheBackIndex : Prop :=
  encode .back = [0x01000000] ∧
  ∀ s : State, s.sys.halted = false →
    exec .back s = .next (s.respond .ok (if s.fbc.front then 0 else 1))

/-- A SWAP that succeeds (40_framebuffer.md R132): the roles exchange, the descriptor is latched, the
transfer is armed, no pixel changes, and the answer is the new back index. -/
def Obligations.SwapExchangesTheRoles : Prop :=
  ∀ s : State, s.sys.halted = false → s.fts.phase = .idle → s.dos.fault = false →
    s.dos.dstate = .idle →
    exec .swap s = .next
      ({ s with
          fbc := { fb0 := s.fbc.fb0, fb1 := s.fbc.fb1, front := !s.fbc.front }
          dos := { dstate := .armed, xdone := false, fault := false, dsel := !s.fbc.front,
                   dbytes := BitVec.ofNat 32 (s.cfg.fbW * s.cfg.fbH * s.cfg.pixelBytes),
                   didx := 0, tmoCnt := 0 } }.respond .ok (if s.fbc.front then 1 else 0))

/-- A SWAP that does not succeed at once (40_framebuffer.md R132): HardwareFault first, then NotReady or,
with SWAP_BLOCK = 1, a hold that changes nothing but that the command is under way. That the hold begins
with a step of its own that puts the command under way is log 13. -/
def Obligations.SwapIsTurnedAwayOrHolds : Prop :=
  ∀ s : State, s.sys.halted = false → s.fts.phase = .idle →
    (s.dos.fault = true → exec .swap s = .next (s.respond .hardwareFault 0)) ∧
    (s.dos.fault = false → s.dos.dstate ≠ .idle → s.cfg.swapBlock = false →
      exec .swap s = .next (s.respond .notReady 0)) ∧
    (s.dos.fault = false → s.dos.dstate ≠ .idle → s.cfg.swapBlock = true →
      exec .swap s = .next { s with port := { s.port with job := some .swap } })

/-- The hold of a SWAP and of a DWAIT (40_framebuffer.md R132, 41_display.md R152): no step while
DSTATE ≠ IDLE; then HardwareFault if FAULT = 1, else the swap, or the answer of DWAIT. That the command
under way stands in the port's job, that a turn of HOST which finds the hold not lifted changes nothing and
that a later turn ends the command is log 13. -/
def Obligations.HeldSwapAndDwaitGoOnWhenIdle : Prop :=
  ∀ s : State, s.sys.halted = false →
    (s.port.job = some .swap ∨ s.port.job = some .dwait →
      (s.dos.dstate ≠ .idle → turn .host s = .next s) ∧
      (s.dos.dstate = .idle → s.dos.fault = true →
        turn .host s = .next ((s.setJob none).respond .hardwareFault 0))) ∧
    (s.port.job = some .swap → s.dos.dstate = .idle → s.dos.fault = false →
      turn .host s =
        .next ((doSwap (s.setJob none)).respond .ok (if s.fbc.front then 1 else 0))) ∧
    (s.port.job = some .dwait → s.dos.dstate = .idle → s.dos.fault = false →
      turn .host s = .next ((s.setJob none).respond .ok 0))

/-- `Plot` (40_framebuffer.md R134): element y × FB_W + x of the back Frame takes the truncated colour
when the position is inside the Frame; every other element of both Frames reads as before, and FRONT is
kept. -/
def Obligations.PlotWritesOneClippedBackPixel : Prop :=
  ∀ (c : Config) (f : Fbc) (x y : Int) (colour : Word) (k : Bool) (i : Nat),
    ((plot c f x y colour).frame k).read i =
      (if k = !f.front ∧ 0 ≤ x ∧ x < c.fbW ∧ 0 ≤ y ∧ y < c.fbH ∧
          (i : Int) = y * c.fbW + x then
        some (BitVec.ofNat 32 (colour.toNat % 2 ^ c.pixelBits))
      else (f.frame k).read i) ∧
    (plot c f x y colour).front = f.front

/-- A sequence of Plot calls: an element of the back Frame reads as the last call that reached it left
it, and as before when none did; the front Frame and FRONT are kept (40_framebuffer.md R134). -/
def Obligations.DrawnPixelsReadBack : Prop :=
  ∀ (c : Config) (f : Fbc) (points : List (Int × Int × Word)),
    (∀ i : Nat, ((plotAll c points f).frame (!f.front)).read i =
      match lastInk c points i with
      | some v => some v
      | none => (f.frame (!f.front)).read i) ∧
    (plotAll c points f).frame f.front = f.frame f.front ∧
    (plotAll c points f).front = f.front

/-- The drawing commands (40_framebuffer.md R135, R136, R138, R139, R140) are their Plot calls and the
answer (`OK`, 0); nothing else changes. The `k`-th character of a TEXT is drawn with the pen at
x + k × GLYPH_W; a BLIT carries its w × h data words (30_encoding.md R110). That each is one step is the
choice 20_memory.md R80 allows (log 15). -/
def Obligations.DrawingCommandsPlotTheirPoints : Prop :=
  ∀ s : State, s.sys.halted = false →
    let answer (points : List (Int × Int × Word)) : Result :=
      .next ({ s with fbc := plotAll s.cfg points s.fbc }.respond .ok 0)
    (∀ (x y : Half) (colour : Word),
      exec (.pset x y colour) s = answer [(x.toInt, y.toInt, colour)]) ∧
    (∀ (x0 y0 x1 y1 : Half) (colour : Word), exec (.line x0 y0 x1 y1 colour) s =
      answer ((s.cfg.linePixels x0.toInt y0.toInt x1.toInt y1.toInt).map
        fun p => (p.1, p.2, colour))) ∧
    (∀ (x y w h : Half) (colour : Word), exec (.rect x y w h colour) s =
      answer ((List.range h.toNat).flatMap fun (j : Nat) =>
        (List.range w.toNat).map fun (i : Nat) =>
          (x.toInt + (i : Int), y.toInt + (j : Int), colour))) ∧
    (∀ (x y w h : Half) (data : List Word), data.length = w.toNat * h.toNat →
      exec (.blit x y w h data) s = answer ((List.range h.toNat).flatMap fun (j : Nat) =>
        (List.range w.toNat).map fun (i : Nat) =>
          (x.toInt + (i : Int), y.toInt + (j : Int), data.getD (j * w.toNat + i) 0))) ∧
    ∀ (x y : Half) (colour : Word) (chars : List CharCode), exec (.text x y colour chars) s =
      answer (chars.zipIdx.flatMap fun (e : CharCode × Nat) =>
        (s.cfg.glyph e.1).map fun (p : Nat × Nat) =>
          (x.toInt + (e.2 : Int) * (s.cfg.glyphW : Int) + (p.1 : Int), y.toInt + (p.2 : Int),
            colour))

/-- The default LinePixels (40_framebuffer.md R136, R137; the default is the spec's own, log 19) contains
both end points and has at most max(|x1 − x0|, |y1 − y0|) + 1 points. -/
def Obligations.DefaultLineReachesBothEndPoints : Prop :=
  ∀ x0 y0 x1 y1 : Int,
    (x0, y0) ∈ lineDefault x0 y0 x1 y1 ∧ (x1, y1) ∈ lineDefault x0 y0 x1 y1 ∧
    (lineDefault x0 y0 x1 y1).length ≤ max (x1 - x0).natAbs (y1 - y0).natAbs + 1

/-! ### DOS -/

/-- DCOMP (41_display.md R151), which answers 1 exactly when a SWAP succeeds. -/
def Obligations.DcompAnswersWhetherASwapSucceeds : Prop :=
  encode .dcomp = [0x10000000] ∧
  ∀ s : State, s.sys.halted = false →
    exec .dcomp s = .next
      (s.respond .ok (if s.dos.dstate = .idle ∧ s.dos.fault = false then 1 else 0)) ∧
    (s.fts.phase = .idle →
      ((s.dos.dstate = .idle ∧ s.dos.fault = false) ↔
        ∃ t v, exec .swap s = .next t ∧ t.out.rsp = s.out.rsp ++ [⟨.ok, v⟩]))

/-- DTRY and DWAIT (41_display.md R152, R153). That a DWAIT which cannot end at once is one step that only
puts it under way is log 13. -/
def Obligations.DtryAndDwaitAnswer : Prop :=
  ∀ s : State, s.sys.halted = false →
    (s.dos.dstate ≠ .idle →
      exec .dtry s = .next (s.respond .notReady 0) ∧
      exec .dwait s = .next { s with port := { s.port with job := some .dwait } }) ∧
    (s.dos.dstate = .idle → s.dos.fault = true →
      exec .dtry s = .next (s.respond .hardwareFault 0) ∧
      exec .dwait s = .next (s.respond .hardwareFault 0)) ∧
    (s.dos.dstate = .idle → s.dos.fault = false →
      exec .dtry s = .next (s.respond .ok 0) ∧ exec .dwait s = .next (s.respond .ok 0))

/-- DCLR (41_display.md R158). -/
def Obligations.DclrClearsFaultOnly : Prop :=
  encode .dclr = [0x13000000] ∧
  ∀ s : State, s.sys.halted = false →
    exec .dclr s = .next ({ s with dos := { s.dos with fault := false } }.respond .ok 0)

/-- DRESET (41_display.md R159): those six registers; FRONT, D_SEL, STICKY and both Frames are kept. -/
def Obligations.DresetReturnsTheSequencerToIdle : Prop :=
  encode .dreset = [0x14000000] ∧
  ∀ s : State, s.sys.halted = false →
    exec .dreset s = .next
      ({ s with dos := { dstate := .idle, xdone := false, fault := false, dsel := s.dos.dsel,
                         dbytes := 0, didx := 0, tmoCnt := 0 } }.respond .ok 0)

/-- D_BEGIN (41_display.md R160): an armed transfer starts with SOF; any other VSYNC does nothing. -/
def Obligations.VsyncStartsOnlyAnArmedTransfer : Prop :=
  ∀ s : State,
    (s.sys.halted = false → s.dos.dstate = .armed →
      turn .vsync s = .next
        { s with dos := { s.dos with dstate := .active },
                 out := { s.out with panel := s.out.panel ++ [.sof] } }) ∧
    (s.sys.halted = true ∨ s.dos.dstate ≠ .armed → turn .vsync s = .next s)

/-- 41_display.md R161, R162, R165. A D_WORD that is not enabled (HALTED = 1, not ACTIVE, PANEL_ACK = 0, or
no byte left) moves nothing. An enabled one emits the wire word of the pixel at D_IDX, adds 1 to D_IDX and,
with the last byte, completes; nothing else changes. From an armed transfer, a VSYNC and N_PIX D_WORD steps
with PANEL_ACK = 1 put SOF and the whole front Frame, in index order, on the PANEL stream, and complete. An
element that nothing has written leaves as its free power-on value, whatever that is (log 6). -/
def Obligations.TransferStreamsTheWholeFrame : Prop :=
  (∀ s : State,
    s.sys.halted = true ∨ s.dos.dstate ≠ .active ∨ s.env.panelAck = false ∨
      s.dos.dbytes.toNat ≤ s.dos.didx.toNat * s.cfg.pixelBytes → turn .dword s = .next s) ∧
  (∀ s : State, s.sys.halted = false → s.dos.dstate = .active → s.env.panelAck = true →
    s.dos.didx.toNat * s.cfg.pixelBytes < s.dos.dbytes.toNat → s.dos.didx.toNat < s.cfg.nPix →
    let last : Bool := (s.dos.didx.toNat + 1) * s.cfg.pixelBytes = s.dos.dbytes.toNat
    let w := s.cfg.wire (s.framePixel s.dos.dsel s.dos.didx.toNat)
    turn .dword s = .next
      { s with
        dos := { s.dos with
          didx := s.dos.didx + 1
          dstate := if last then .idle else .active
          xdone := last || s.dos.xdone }
        out := { s.out with panel := s.out.panel ++ [.word w] } }) ∧
  ∀ s : State, StateInv s → s.sys.halted = false → s.dos.dstate = .armed → s.env.panelAck = true →
    ∃ t u, turn .vsync s = .next t ∧ repeatTurn .dword s.cfg.nPix t = .next u ∧
      u.out.panel = s.out.panel ++ .sof :: s.frameWords s.fbc.front ∧
      u.dos.dstate = .idle ∧ u.dos.xdone = true ∧ u.dos.fault = s.dos.fault ∧
      u.dos.didx.toNat = s.cfg.nPix ∧ u.fbc = s.fbc ∧ turn .dword u = .next u

/-- The timeout (41_display.md R163, R152): a transfer that nothing moves is abandoned by exactly the
XFER_TIMEOUT-th TB event after arming, with FAULT and STICKY.HWFAULT set and D_IDX, D_BYTES, D_SEL kept;
one event less and it is still pending. -/
def Obligations.StalledTransferTimesOut : Prop :=
  ∀ (s : State) (n : Nat), StateInv s → s.sys.halted = false → s.dos.dstate ≠ .idle →
    s.sys.time.toNat + n < 2 ^ 64 →
    (s.dos.tmoCnt.toNat + n < s.cfg.xferTimeout →
      ∃ t, repeatTurn .tb n s = .next t ∧ t.dos.dstate = s.dos.dstate ∧ t.dos.fault = false ∧
        t.dos.tmoCnt.toNat = s.dos.tmoCnt.toNat + n ∧
        t.sys.time.toNat = s.sys.time.toNat + n) ∧
    (s.dos.tmoCnt.toNat + n = s.cfg.xferTimeout →
      ∃ t, repeatTurn .tb n s = .next t ∧
        t.dos = { s.dos with dstate := .idle, fault := true,
                             tmoCnt := BitVec.ofNat 32 s.cfg.xferTimeout } ∧
        t.sys.sticky = s.sys.sticky ||| stickyHwfault ∧
        t.sys.time.toNat = s.sys.time.toNat + n)

/-- 20_memory.md R85, 40_framebuffer.md R133 (a), (b), (d): while a transfer is pending or in flight no
step changes FRONT or an element of the front Frame; and FRONT changes only in a swap made with DSTATE =
IDLE and FAULT = 0, which arms the transfer of the new front Frame and copies and clears no pixel. -/
def Obligations.RolesChangeOnlyInASwap : Prop :=
  ∀ s t : State, step s = .next t →
    (s.dos.dstate ≠ .idle →
      t.fbc.front = s.fbc.front ∧ t.fbc.frame s.fbc.front = s.fbc.frame s.fbc.front) ∧
    (t.fbc.front ≠ s.fbc.front →
      s.dos.dstate = .idle ∧ s.dos.fault = false ∧ t.dos.dstate = .armed ∧
      t.dos.dsel = t.fbc.front ∧ t.fbc.fb0 = s.fbc.fb0 ∧ t.fbc.fb1 = s.fbc.fb1)

/-! ### MIX -/

/-- CHWAVE, CHVOL, CHFREQ, CHPOS, CHLOOP, CHTABLE (42_audio.md R171 to R174, R177, R178): the field named,
of the channel named; every other field, channel and unit is kept. -/
def Obligations.ChannelSettingsWriteTheirField : Prop :=
  ∀ (s : State) (ch : BitVec 8), s.sys.halted = false → ch.toNat < s.cfg.nCh →
    let set (f : Channel → Channel) : State :=
      { s with mix := { s.mix with chans := s.mix.chans.modify ch.toNat f } }
    (∀ (k : Half) (kd : Kind), (kindCode kd).toNat = k.toNat →
      exec (.chwave ch k) s =
        .next ((set fun c => { c with kind := kd }).respond .ok 0)) ∧
    (∀ v : Half, v.toNat ≤ 256 →
      exec (.chvol ch v) s =
        .next ((set fun c => { c with vol := BitVec.ofNat 9 v.toNat }).respond .ok 0)) ∧
    (∀ v : Word, exec (.chfreq ch v) s = .next ((set fun c => { c with step := v }).respond .ok 0)) ∧
    (∀ v : Word, exec (.chpos ch v) s = .next ((set fun c => { c with pos0 := v }).respond .ok 0)) ∧
    (∀ f : Bool, exec (.chloop ch (if f then 1 else 0)) s =
      .next ((set fun c => { c with loop := f }).respond .ok 0)) ∧
    (∀ b l : Word, b.toNat + l.toNat ≤ s.cfg.smpSize →
      exec (.chtable ch b l) s =
        .next ((set fun c => { c with tbase := b, tlen := l }).respond .ok 0))

/-- CHSTART and CHSTOP (42_audio.md R175, R176). -/
def Obligations.ChstartLoadsAndChstopKeepsTheCursor : Prop :=
  ∀ (s : State) (ch : BitVec 8), s.sys.halted = false → ch.toNat < s.cfg.nCh →
    exec (.chstart ch) s = .next
      ({ s with mix := { s.mix with chans := s.mix.chans.modify ch.toNat fun c =>
          { c with cur := c.pos0, lfsr := 1, active := true } } }.respond .ok 0) ∧
    exec (.chstop ch) s = .next
      ({ s with mix := { s.mix with chans := s.mix.chans.modify ch.toNat fun c =>
          { c with active := false } } }.respond .ok 0)

/-- 10_state.md R40, 42_audio.md R179: no command but CHSTART writes CUR or LFSR in its first step, and no
command at all then touches SMP, Q, its cursors or PCM_OUT. For MIXT, MIXD and MIXW this rests on their
first step making no sample (log 13); their sample-steps, the mixer's, do write CUR and LFSR
(ProductionStepMixesOneSample). -/
def Obligations.FirstStepKeepsCursorsButChstart : Prop :=
  ∀ (i : Instr) (s t : State), exec i s = .next t →
    t.mix.smp = s.mix.smp ∧ t.mix.q = s.mix.q ∧ t.mix.qWr = s.mix.qWr ∧ t.mix.qRd = s.mix.qRd ∧
    t.mix.pcmOut = s.mix.pcmOut ∧ t.mix.chans.length = s.mix.chans.length ∧
    ∀ (n : Nat) (old new : Channel), s.mix.chans[n]? = some old → t.mix.chans[n]? = some new →
      (new.cur = old.cur ∧ new.lfsr = old.lfsr) ∨ ∃ ch : BitVec 8, i = .chstart ch ∧ ch.toNat = n

/-- 42_audio.md R189: channels mixed in any order give the same saturated sample. -/
def Obligations.MixingIsOrderIndependent : Prop :=
  ∀ (c : Config) (m m' : Mix), m'.smp = m.smp → m'.chans.Perm m.chans →
    (mixOne c m').map Prod.fst = (mixOne c m).map Prod.fst

/-- 42_audio.md R187, R190: two tone channels at 50%, every other channel inactive, give
floor((s1 + s2) / 2), and saturation never acts. -/
def Obligations.TwoHalfVolumeTonesAverage : Prop :=
  ∀ (c : Config) (m : Mix) (a b : Channel) (ta tb : Tone) (quiet : List Channel),
    m.chans = a :: b :: quiet → a.active = true → b.active = true → a.kind = .tone ta →
    b.kind = .tone tb → a.vol = 128 → b.vol = 128 → (∀ ch ∈ quiet, ch.active = false) →
    ∃ v m', mixOne c m = some (v, m') ∧
      v.toInt =
        ((c.waveFn ta a.cur a.lfsr).toInt + (c.waveFn tb b.cur b.lfsr).toInt).fdiv 2

/-- 42_audio.md R180, R188: the sample is the exact sum over the active channels of sample times volume,
shifted with one floor and saturated once to −32768 .. 32767; nothing but the channel file changes, and in
it an inactive channel keeps every field and an active one becomes what ChanSample leaves. -/
def Obligations.MixSaturatesTheExactSumOnce : Prop :=
  ∀ (c : Config) (m m' : Mix) (v : Sample), mixOne c m = some (v, m') →
    m' = { m with chans := m'.chans } ∧ m'.chans.length = m.chans.length ∧
    (∀ (n : Nat) (ch : Channel), m.chans[n]? = some ch →
      (ch.active = false → m'.chans[n]? = some ch) ∧
      (ch.active = true → m'.chans[n]? = (chanSample c m ch).map Prod.snd)) ∧
    v.toInt = max (-32768) (min 32767
      (((m.chans.filter fun (ch : Channel) => ch.active).map fun (ch : Channel) =>
        match chanSample c m ch with
        | some r => r.1.toInt * (ch.vol.toNat : Int)
        | none => 0).sum.fdiv 256))

/-- 42_audio.md R183, for an active sample-playback channel. Not looping, started at 0 with a table of n
entries inside SMP: its n entries in order and then silence, inactive, for as many samples as one likes.
Looping: entry k mod n at sample k, the cursor back at 0 after the last entry, active for ever. With the
cursor at or beyond the end (TLEN = 0 included), looping or not: silence, inactive, the cursor kept. -/
def Obligations.TableChannelPlaysItsTable : Prop :=
  ∀ (c : Config) (m : Mix) (ch : Channel) (k : Nat), ch.active = true → ch.kind = .sample →
    (ch.loop = false → ch.cur = 0 → ch.tlen ≠ 0 → ch.tbase.toNat + ch.tlen.toNat ≤ c.smpSize →
      playChannel c m (ch.tlen.toNat + k) ch =
        some ((List.range ch.tlen.toNat).map (fun i => m.smpAt (ch.tbase.toNat + i)) ++
            List.replicate k 0,
          { ch with cur := ch.tlen, active := false })) ∧
    (ch.loop = true → ch.cur = 0 → ch.tlen ≠ 0 → ch.tbase.toNat + ch.tlen.toNat ≤ c.smpSize →
      playChannel c m k ch =
        some ((List.range k).map (fun i => m.smpAt (ch.tbase.toNat + i % ch.tlen.toNat)),
          { ch with cur := BitVec.ofNat 32 (k % ch.tlen.toNat) })) ∧
    (ch.tlen.toNat ≤ ch.cur.toNat →
      playChannel c m (k + 1) ch = some (List.replicate (k + 1) 0, { ch with active := false }))

/-- 42_audio.md R181, R182, R185: a tone channel plays its waveform at its phase, then advances by STEP
modulo 2^32 per produced sample; a noise channel's generator steps once for each wrap of the phase and at
no other time, any other tone's never; it never stops by itself, and changes no setting. -/
def Obligations.TonePhaseAdvancesByStep : Prop :=
  ∀ (c : Config) (m : Mix) (ch : Channel) (t : Tone) (n : Nat), ch.active = true →
    ch.kind = .tone t →
    let wraps (k : Nat) : Nat :=
      if t = .noise then (ch.cur.toNat + k * ch.step.toNat) / 2 ^ 32 else 0
    let generator (k : Nat) : BitVec 16 := Nat.iterate c.lfsrStep (wraps k) ch.lfsr
    ∃ vs, playChannel c m n ch =
        some (vs, { ch with cur := ch.cur + BitVec.ofNat 32 n * ch.step, lfsr := generator n }) ∧
      vs.length = n ∧ ∀ k < n,
        vs[k]? = some (c.waveFn t (ch.cur + BitVec.ofNat 32 k * ch.step) (generator k))

/-- 42_audio.md R191, R198, 20_memory.md R81: Enqueue appends to the queued samples and a drain takes the
oldest: no reordering, nothing lost or read twice. -/
def Obligations.QueueIsFirstInFirstOut : Prop :=
  ∀ (c : Config) (m : Mix), c.Valid → mixOk c m →
    (∀ v : Sample, m.qCount.toNat < c.qCap →
      (enqueue c v m).queued c = m.queued c ++ [v]) ∧
    (∀ (v : Sample) (vs : List Sample), m.queued c = v :: vs →
      (drain c m).pcmOut = v ∧ (drain c m).queued c = vs) ∧
    (m.queued c = [] → (drain c m).pcmOut = 0 ∧ (drain c m).queued c = [])

/-- A_DRAIN (42_audio.md R198). -/
def Obligations.DrainEmitsOneSamplePerSclk : Prop :=
  ∀ s : State,
    (s.sys.halted = true → turn .sclk s = .next s) ∧
    (s.sys.halted = false → 0 < s.mix.qCount.toNat →
      let v := s.mix.qAt (s.mix.qRd.toNat % s.cfg.qCap)
      turn .sclk s = .next
        { s with mix := { s.mix with pcmOut := v, qRd := s.mix.qRd + 1 },
                 out := { s.out with pcm := s.out.pcm ++ [v] } }) ∧
    (s.sys.halted = false → s.mix.qCount.toNat = 0 →
      turn .sclk s = .next
        { s with mix := { s.mix with pcmOut := 0 },
                 out := { s.out with pcm := s.out.pcm ++ [0] } })

/-- The first step of MIXT, MIXD, MIXW (42_audio.md R193, R194, R195): the number of samples is fixed, and
with none to produce the command ends at once. That this step makes no sample is log 13. -/
def Obligations.ProductionCommandsStart : Prop :=
  ∀ s : State, s.cfg.Valid → s.sys.halted = false → s.port.job = none →
    let free := s.cfg.qCap - s.mix.qCount.toNat
    (free = 0 → exec .mixt s = .next (s.respond .ok 0)) ∧
    (0 < free → exec .mixt s = .next
      { s with port := { s.port with
          job := some (.mixt (BitVec.ofNat 32 free) (BitVec.ofNat 32 free)) } }) ∧
    exec (.mixd 0) s = .next (s.respond .ok 0) ∧ exec (.mixw 0) s = .next (s.respond .ok 0) ∧
    ∀ n : Half, n ≠ 0 →
      exec (.mixd n) s = .next
        { s with port := { s.port with job := some (.mixd (BitVec.ofNat 32 n.toNat) 0) } } ∧
      exec (.mixw n) s = .next
        { s with port := { s.port with
            job := some (.mixw (BitVec.ofNat 32 n.toNat) (BitVec.ofNat 32 n.toNat)) } }

/-- 42_audio.md R192 to R195: a sample-step of MIXT, MIXD or MIXW makes one sample of `MixOne` and puts that
sample into the queue when there is room; a MIXD that finds the queue full drops it, the channels advanced
all the same, with MX_DROP and STICKY.OVERRUN. The last sample-step gives the response (log 13). -/
def Obligations.ProductionStepMixesOneSample : Prop :=
  ∀ (s : State) (v : Sample) (m : Mix), s.sys.halted = false →
    mixOne s.cfg s.mix = some (v, m) →
    let stored (j : Option Job) : State :=
      { s with mix := enqueue s.cfg v m, port := { s.port with job := j } }
    let dropped (j : Option Job) : State :=
      { s with mix := m, port := { s.port with job := j },
               sys := { s.sys with sticky := s.sys.sticky ||| stickyOverrun } }
    (s.mix.qCount.toNat < s.cfg.qCap →
      (∀ k left : Word, s.port.job = some (.mixt k left) → left ≠ 0 →
        turn .host s = .next (if left = 1 then (stored none).respond .ok (k.setWidth 64)
          else stored (some (.mixt k (left - 1))))) ∧
      (∀ left drop : Word, s.port.job = some (.mixd left drop) → left ≠ 0 →
        turn .host s = .next (if left = 1 then
            if drop = 0 then (stored none).respond .ok 0
            else (stored none).respond .bufferOverrun (drop.setWidth 64)
          else stored (some (.mixd (left - 1) drop)))) ∧
      (∀ n left : Word, s.port.job = some (.mixw n left) → left ≠ 0 →
        turn .host s = .next (if left = 1 then (stored none).respond .ok (n.setWidth 64)
          else stored (some (.mixw n (left - 1)))))) ∧
    (s.cfg.qCap ≤ s.mix.qCount.toNat →
      ∀ left drop : Word, s.port.job = some (.mixd left drop) → left ≠ 0 →
        drop.toNat + 1 < 2 ^ 32 →
        turn .host s = .next (if left = 1 then
            (dropped none).respond .bufferOverrun ((drop + 1).setWidth 64)
          else dropped (some (.mixd (left - 1) (drop + 1)))))

/-- 42_audio.md R193: a MIXT that nothing interrupts produces Q_FREE samples, one per HOST step, answers
their number and leaves the queue full: the old samples, then the next Q_FREE samples of the mixer (the first
step only counts, log 13). -/
def Obligations.MixtFillsTheQueue : Prop :=
  ∀ s : State, StateInv s → s.sys.halted = false → s.port.job = none →
    ∃ t u made m, exec .mixt s = .next t ∧ repeatTurn .host s.qFree t = .next u ∧
      mixTimes s.cfg s.qFree s.mix = some (made, m) ∧ u.mix.chans = m.chans ∧
      u.out.rsp = s.out.rsp ++ [⟨.ok, BitVec.ofNat 64 s.qFree⟩] ∧ u.port.job = none ∧
      u.mix.qCount.toNat = s.cfg.qCap ∧ u.mix.qRd = s.mix.qRd ∧
      made.length = s.qFree ∧ u.mix.queued s.cfg = s.mix.queued s.cfg ++ made

/-- 42_audio.md R194: a MIXD n that nothing interrupts produces the next n samples of the mixer in n HOST
steps, keeps the first of them that the queue has room for behind the old samples and drops the rest,
answering the number dropped; the channels advance by n sample periods either way (the first step only
counts, log 13). -/
def Obligations.MixdDropsExactlyTheOverflow : Prop :=
  ∀ (s : State) (n : Half), StateInv s → s.sys.halted = false → s.port.job = none →
    ∃ t u made m, exec (.mixd n) s = .next t ∧ repeatTurn .host n.toNat t = .next u ∧
      mixTimes s.cfg n.toNat s.mix = some (made, m) ∧ u.mix.chans = m.chans ∧
      made.length = n.toNat ∧
      u.mix.queued s.cfg = s.mix.queued s.cfg ++ made.take s.qFree ∧
      u.port.job = none ∧ u.mix.qRd = s.mix.qRd ∧
      u.mix.qCount.toNat = min (s.mix.qCount.toNat + n.toNat) s.cfg.qCap ∧
      (n.toNat ≤ s.qFree →
        u.out.rsp = s.out.rsp ++ [⟨.ok, 0⟩] ∧ u.sys.sticky = s.sys.sticky) ∧
      (s.qFree < n.toNat →
        u.out.rsp = s.out.rsp ++ [⟨.bufferOverrun, BitVec.ofNat 64 (n.toNat - s.qFree)⟩] ∧
        u.sys.sticky = s.sys.sticky ||| stickyOverrun)

/-- 42_audio.md R195: MIXW holds, changing nothing, while the queue is full; after a drain it enqueues the
mixer's next sample; and with n ≤ Q_FREE and no interruption it puts the mixer's next n samples behind the
old ones in n HOST steps (log 13). -/
def Obligations.MixwWaitsForRoom : Prop :=
  ∀ s : State, StateInv s → s.sys.halted = false →
    (∀ n left : Word, s.port.job = some (.mixw n left) → s.qFull = true →
      turn .host s = .next s ∧
      ∃ t u v m, turn .sclk s = .next t ∧ turn .host t = .next u ∧
        mixOne t.cfg t.mix = some (v, m) ∧ u.mix = enqueue t.cfg v m ∧
        u.mix.qWr = s.mix.qWr + 1 ∧ u.mix.qCount.toNat = s.cfg.qCap) ∧
    (s.port.job = none → ∀ n : Half, n.toNat ≤ s.qFree →
      ∃ t u made m, exec (.mixw n) s = .next t ∧ repeatTurn .host n.toNat t = .next u ∧
        mixTimes s.cfg n.toNat s.mix = some (made, m) ∧ u.mix.chans = m.chans ∧
        made.length = n.toNat ∧ u.mix.queued s.cfg = s.mix.queued s.cfg ++ made ∧
        u.port.job = none ∧ u.out.rsp = s.out.rsp ++ [⟨.ok, BitVec.ofNat 64 n.toNat⟩] ∧
        u.mix.qCount.toNat = s.mix.qCount.toNat + n.toNat)

/-! ### INP -/

/-- INSAMPLE (43_input.md R212). -/
def Obligations.InsampleAnswersTheLevel : Prop :=
  encode .insample = [0x30000000] ∧
  ∀ s : State, s.sys.halted = false →
    (s.fts.phase = .idle → s.env.btnValid = true →
      exec .insample s = .next ((sampleInputs s).respond .ok
        ((sampleInputs s).inp.level.setWidth 64))) ∧
    (s.fts.phase = .idle → s.env.btnValid = false →
      exec .insample s = .next ((sampleInputs s).respond .inputReadFailure
        (s.inp.level.setWidth 64))) ∧
    (s.fts.phase ≠ .idle → exec .insample s = .next (s.respond .illegal 0))

/-- `Sample()` (43_input.md R211), button by button: the counter of consecutive differing samples, the
flip at DB_WIN, the edge bits; and the failed read. -/
def Obligations.SampleDebouncesEachButton : Prop :=
  ∀ s : State, StateInv s →
    (s.env.btnValid = false → sampleInputs s =
      { s with inp := { s.inp with press := 0, rel := 0 },
               sys := { s.sys with sticky := s.sys.sticky ||| stickyInfail } }) ∧
    (s.env.btnValid = true →
      (∃ p, sampleInputs s = { s with inp := p } ∧ p.dbCnt.length = s.cfg.nBtn) ∧
      ∀ b < s.cfg.nBtn, ∀ cnt : BitVec 16, s.inp.dbCnt[b]? = some cnt →
        let raw := s.env.btnRaw.getLsbD b
        let prev := s.inp.level.getLsbD b
        let new := if raw ≠ prev ∧ s.cfg.dbWin ≤ cnt.toNat + 1 then raw else prev
        (sampleInputs s).inp.level.getLsbD b = new ∧
        (sampleInputs s).inp.press.getLsbD b = (new && !prev) ∧
        (sampleInputs s).inp.rel.getLsbD b = (!new && prev) ∧
        (sampleInputs s).inp.dbCnt[b]? =
          some (if raw ≠ prev ∧ cnt.toNat + 1 < s.cfg.dbWin then cnt + 1 else 0))

/-- 43_input.md R213, R214, for a line with `cnt` differing samples behind it. If no DB_WIN consecutive
samples all differ from the logical state, those behind it counted, the level never changes. A line that
differs from now on keeps its level while fewer than DB_WIN samples differed, flips at the DB_WIN-th and never
again while the raw state stays. -/
def Obligations.LineFlipsExactlyAtTheWindow : Prop :=
  ∀ (c : Config) (p : Inp) (b : Nat) (cnt : BitVec 16), c.Valid → inpOk c p → b < c.nBtn →
    p.dbCnt[b]? = some cnt →
    (∀ raws : List (BitVec 32),
      (∀ i k, i + k ≤ raws.length → k = (if i = 0 then c.dbWin - cnt.toNat else c.dbWin) →
        ∃ j raw, i ≤ j ∧ j < i + k ∧ raws[j]? = some raw ∧
          raw.getLsbD b = p.level.getLsbD b) →
      ∀ n ≤ raws.length,
        (sampleSeq c (raws.take n) p).level.getLsbD b = p.level.getLsbD b) ∧
    ∀ (raw : BitVec 32) (n : Nat), raw.getLsbD b ≠ p.level.getLsbD b →
      (sampleTimes c raw n p).level.getLsbD b =
        if cnt.toNat + n < c.dbWin then p.level.getLsbD b else raw.getLsbD b

/-! ### FTS and the register read -/

/-- RUN (44_scheduler.md R232). -/
def Obligations.RunRequestsInit : Prop :=
  encode .run = [0x40000000] ∧
  ∀ s : State, s.sys.halted = false →
    (s.fts.phase = .idle ∧ s.fts.cbreq = .none →
      exec .run s = .next ({ s with fts := { s.fts with cbreq := .init } }.respond .ok 0)) ∧
    (s.fts.phase ≠ .idle ∨ s.fts.cbreq ≠ .none → exec .run s = .next (s.respond .illegal 0))

/-- CBRET (44_scheduler.md R233). -/
def Obligations.CbretEndsTheCallback : Prop :=
  ∀ (s : State) (v : Word), s.sys.halted = false →
    encode (.cbret v) = [0x41000000, v] ∧
    (s.fts.cbreq = .init → exec (.cbret v) s = .next
      ({ s with fts := { s.fts with cbreq := .none, phase := .sampling } }.respond .ok 0)) ∧
    (s.fts.cbreq = .update → exec (.cbret v) s = .next
      ({ s with fts := { s.fts with gctl := v, cbreq := .draw, phase := .drawing } }.respond
        .ok 0)) ∧
    (s.fts.cbreq = .draw → exec (.cbret v) s = .next
      ({ s with fts := { s.fts with cbreq := .none, phase := .presenting } }.respond .ok 0)) ∧
    (s.fts.cbreq = .none → exec (.cbret v) s = .next (s.respond .illegal 0))

/-- PANIC (44_scheduler.md R238): HALTED is set, the response is given, every other element is kept; it is
the last command that gets one. -/
def Obligations.PanicHaltsTheDevice : Prop :=
  encode .panic = [0x42000000] ∧
  ∀ s : State, s.sys.halted = false →
    exec .panic s = .next ({ s with sys := { s.sys with halted := true } }.respond .ok 0) ∧
    ∀ (t : State) (i : Instr), exec .panic s = .next t → exec i t = .next t

/-- RDREG (44_scheduler.md R239): the value of the register map, with no side effect. -/
def Obligations.RdregAnswersTheRegister : Prop :=
  ∀ (s : State) (n : Half), s.sys.halted = false →
    (∀ v, s.reg n.toNat = some v → exec (.rdreg n) s = .next (s.respond .ok v)) ∧
    (s.reg n.toNat = none → exec (.rdreg n) s = .next (s.respond .illegal 0))

/-- The register map (10_state.md R61), row by row, and that no other number is a register. -/
def Obligations.RegisterMapIsTheTable : Prop :=
  ∀ s : State, StateInv s →
    (s.reg 0x0000 = some (s.status.setWidth 64) ∧ s.reg 0x0001 = some (s.sys.sticky.setWidth 64) ∧
      s.reg 0x0002 = some s.fts.tick ∧ s.reg 0x0003 = some s.sys.time ∧
      s.reg 0x0004 = some s.fts.elapsed ∧ s.reg 0x0005 = some s.fts.tStart ∧
      s.reg 0x0006 = some (s.fts.gctl.setWidth 64) ∧
      s.reg 0x0007 = some (s.fts.topupN.setWidth 64) ∧
      s.reg 0x0010 = some (s.inp.level.setWidth 64) ∧
      s.reg 0x0011 = some (s.inp.press.setWidth 64) ∧
      s.reg 0x0012 = some (s.inp.rel.setWidth 64) ∧
      s.reg 0x0020 = some (s.dos.dbytes.setWidth 64) ∧
      s.reg 0x0021 = some (s.dos.didx.setWidth 64) ∧
      s.reg 0x0022 = some (BitVec.ofInt 64
        ((s.dos.dbytes.toNat : Int) - s.dos.didx.toNat * s.cfg.pixelBytes)) ∧
      s.reg 0x0023 = some (s.dos.tmoCnt.setWidth 64) ∧
      s.reg 0x0030 = some (s.mix.qWr.setWidth 64) ∧ s.reg 0x0031 = some (s.mix.qRd.setWidth 64) ∧
      s.reg 0x0032 = some ((s.mix.qWr - s.mix.qRd).setWidth 64) ∧
      s.reg 0x0033 = some (s.mix.pcmOut.signExtend 64)) ∧
    (∀ b < s.cfg.nBtn, ∀ cnt : BitVec 16, s.inp.dbCnt[b]? = some cnt →
      s.reg (0x0040 + b) = some (cnt.setWidth 64)) ∧
    (∀ k < s.cfg.nCh, ∀ ch : Channel, s.mix.chans[k]? = some ch →
      s.reg (0x0100 + 16 * k + 0) = some (ch.ctrl.setWidth 64) ∧
      s.reg (0x0100 + 16 * k + 1) = some (ch.vol.setWidth 64) ∧
      s.reg (0x0100 + 16 * k + 2) = some (ch.step.setWidth 64) ∧
      s.reg (0x0100 + 16 * k + 3) = some (ch.pos0.setWidth 64) ∧
      s.reg (0x0100 + 16 * k + 4) = some (ch.cur.setWidth 64) ∧
      s.reg (0x0100 + 16 * k + 5) = some (ch.lfsr.setWidth 64) ∧
      s.reg (0x0100 + 16 * k + 6) = some (ch.tbase.setWidth 64) ∧
      s.reg (0x0100 + 16 * k + 7) = some (ch.tlen.setWidth 64)) ∧
    ∀ n : Nat, (s.reg n).isSome = true →
      n ≤ 0x07 ∨ (0x10 ≤ n ∧ n ≤ 0x12) ∨ (0x20 ≤ n ∧ n ≤ 0x23) ∨ (0x30 ≤ n ∧ n ≤ 0x33) ∨
      (0x40 ≤ n ∧ n < 0x40 + s.cfg.nBtn) ∨
      (0x100 ≤ n ∧ n < 0x100 + 16 * s.cfg.nCh ∧ n % 16 < 8)

/-- The packed views (10_state.md R62), bit by bit as sums of their fields. -/
def Obligations.PackedViewsHoldTheirFields : Prop :=
  (∀ s : State, s.status.toNat =
    (if s.dos.dstate = .idle then 0 else 1) +
    2 * (match s.dos.dstate with | .idle => 0 | .armed => 1 | .active => 2) +
    8 * s.dos.xdone.toNat + 16 * s.dos.fault.toNat + 32 * s.fbc.front.toNat +
    64 * s.dos.dsel.toNat + 128 * s.sys.halted.toNat +
    256 * (match s.fts.phase with
      | .idle => 0 | .sampling => 1 | .updating => 2 | .drawing => 3 | .presenting => 4
      | .waitingForVsync => 5) +
    2048 * (match s.fts.cbreq with | .none => 0 | .init => 1 | .update => 2 | .draw => 3)) ∧
  ∀ ch : Channel, ch.ctrl.toNat =
    (match ch.kind with
      | .tone .square => 0 | .tone .saw => 1 | .tone .triangle => 2 | .tone .noise => 3
      | .sample => 4) +
    8 * ch.active.toNat + 16 * ch.loop.toNat

/-- S_SAMPLE (44_scheduler.md R240). -/
def Obligations.SamplingStepRequestsUpdate : Prop :=
  ∀ s : State, s.sys.halted = false → s.port.job = none → s.fts.phase = .sampling →
    turn .sched s = .next
      { sampleInputs s with
        fts := { s.fts with
          elapsed := if s.fts.tick = 0 then 0 else s.sys.time - s.fts.tStart
          tStart := s.sys.time, phase := .updating, cbreq := .update } }

/-- S_PRESENT and its holds (44_scheduler.md R243, R244). -/
def Obligations.PresentingStepSwapsWhenTheSequencerIsFree : Prop :=
  ∀ s : State, s.sys.halted = false → s.port.job = none → s.fts.phase = .presenting →
    (s.dos.dstate = .idle ∧ s.dos.fault = false →
      turn .sched s = .next
        { doSwap s with
          fts := { s.fts with
            topupN := BitVec.ofNat 32 (s.cfg.qCap - s.mix.qCount.toNat)
            phase := .waitingForVsync } }) ∧
    (s.dos.dstate ≠ .idle ∨ s.dos.fault = true → turn .sched s = .next s)

/-- S_TOPUP and S_NEXT (44_scheduler.md R245, R246). -/
def Obligations.WaitingStepsTopUpThenAdvanceTheTick : Prop :=
  ∀ s : State, s.sys.halted = false → s.port.job = none → s.fts.phase = .waitingForVsync →
    (s.fts.topupN ≠ 0 → s.cfg.qCap ≤ s.mix.qCount.toNat →
      turn .sched s = .next { s with fts := { s.fts with topupN := 0 } }) ∧
    (s.fts.topupN ≠ 0 → s.mix.qCount.toNat < s.cfg.qCap → ∀ v m,
      mixOne s.cfg s.mix = some (v, m) →
      turn .sched s = .next
        { s with mix := enqueue s.cfg v m, fts := { s.fts with topupN := s.fts.topupN - 1 } }) ∧
    (s.fts.topupN = 0 → s.fts.tick.toNat + 1 < 2 ^ 64 →
      (s.cfg.paceEn = false ∨ s.fts.tStart.toNat + s.cfg.framePeriod ≤ s.sys.time.toNat) →
      turn .sched s = .next
        { s with fts := { s.fts with tick := s.fts.tick + 1, phase := .sampling } }) ∧
    (s.fts.topupN = 0 → s.cfg.paceEn = true →
      s.sys.time.toNat < s.fts.tStart.toNat + s.cfg.framePeriod → turn .sched s = .next s)

/-- 44_scheduler.md R249 (a), (b): a step keeps PHASE or moves it to the next phase of the fixed order;
Idle is never entered again. -/
def Obligations.PhasesFollowTheFixedOrder : Prop :=
  ∀ s t : State, StateInv s → step s = .next t → t.fts.phase ≠ s.fts.phase →
    (s.fts.phase, t.fts.phase) ∈
      [(Phase.idle, Phase.sampling), (.sampling, .updating), (.updating, .drawing),
       (.drawing, .presenting), (.presenting, .waitingForVsync), (.waitingForVsync, .sampling)]

/-! ### The whole machine -/

/-- 10_state.md R54, R58, R59, 60_exceptions.md R282, R283: TICK moves only by +1, on leaving
WaitingForVsync; TIME moves only by +1, on a TB event; STICKY bits are never cleared. -/
def Obligations.CountersAdvanceByOneAndStickyStays : Prop :=
  ∀ s t : State, step s = .next t →
    (t.fts.tick = s.fts.tick ∨
      (t.fts.tick.toNat = s.fts.tick.toNat + 1 ∧ s.fts.phase = .waitingForVsync ∧
        t.fts.phase = .sampling)) ∧
    (nextEvent s ≠ .tb → t.sys.time = s.sys.time) ∧
    (nextEvent s = .tb → t.sys.time.toNat = s.sys.time.toNat + 1) ∧
    s.sys.sticky &&& t.sys.sticky = s.sys.sticky

/-- 43_input.md R217: the snapshot changes only in `Sample()`, wholesale, run by S_SAMPLE or by
INSAMPLE. -/
def Obligations.SnapshotChangesOnlyWhenSampled : Prop :=
  ∀ s t : State, step s = .next t → t.inp ≠ s.inp →
    t.inp = (sampleInputs s).inp ∧
    ((nextEvent s = .sched ∧ s.fts.phase = .sampling) ∨
      (nextEvent s = .host ∧ s.fts.phase = .idle ∧
        ∃ rest, decode s.port.cmd = .command .insample rest))

/-- 60_exceptions.md R266: while HALTED = 1 no step changes anything but TIME, the input levels, the words
still to be written and the agenda; nothing is answered or emitted; HALTED stays; TIME counts on a TB
event; and a turn of HOST loses one word (the model's form of "words written to `CMD` are lost", log 3). -/
def Obligations.HaltedBlockIsFrozen : Prop :=
  ∀ s t : State, step s = .next t → s.sys.halted = true →
    t.cfg = s.cfg ∧ t.fbc = s.fbc ∧ t.dos = s.dos ∧ t.mix = s.mix ∧ t.inp = s.inp ∧
    t.fts = s.fts ∧ t.out = s.out ∧ t.port.job = s.port.job ∧
    t.sys.halted = true ∧ t.sys.sticky = s.sys.sticky ∧
    (nextEvent s = .tb → t.sys.time = s.sys.time + 1) ∧
    (nextEvent s ≠ .tb → t.sys.time = s.sys.time) ∧
    (nextEvent s = .host → t.port.cmd = s.port.cmd.drop 1)

/-- 70_reset_and_hazards.md R302, R303, R305 to R308 and the roles of R301: every register after reset,
for every configuration. -/
def Obligations.ResetLeavesTheSpecifiedValues : Prop :=
  ∀ c : Config,
    let s := State.resetFor c
    s.fbc.front = false ∧
    s.dos = { dstate := .idle, xdone := false, fault := false, dsel := false, dbytes := 0, didx := 0,
              tmoCnt := 0 } ∧
    (∀ k < c.nCh, s.mix.chans[k]? = some
      { kind := .tone .square, active := false, loop := false, vol := 0, step := 0, pos0 := 0,
        cur := 0, lfsr := 1, tbase := 0, tlen := 0 }) ∧
    s.mix.smp = c.smpInit ∧ s.mix.qWr = 0 ∧ s.mix.qRd = 0 ∧ s.mix.pcmOut = 0 ∧
    s.inp.level = 0 ∧ s.inp.press = 0 ∧ s.inp.rel = 0 ∧ (∀ b < c.nBtn, s.inp.dbCnt[b]? = some 0) ∧
    s.fts = { phase := .idle, cbreq := .none, tick := 0, tStart := 0, elapsed := 0, gctl := 0,
              topupN := 0 } ∧
    s.sys = { time := 0, sticky := 0, halted := false } ∧
    s.status = 0 ∧ (∀ ch ∈ s.mix.chans, ch.ctrl = 0) ∧
    s.out = { panel := [], pcm := [], rsp := [] } ∧ s.port.job = none

/-- The reset state of every configuration that meets its constraints satisfies the invariant, whatever
commands, order and input levels are given from outside. -/
def Obligations.PowerOnSatisfiesTheInvariant : Prop :=
  ∀ (c : Config) (words : List Word) (order : List Event) (levels : Env), c.Valid →
    StateInv (powerOn c words order levels)

/-- Every step keeps the invariant: roles, descriptor, queue, channels, debouncer, scheduler. -/
def Obligations.StepKeepsTheInvariant : Prop :=
  ∀ s t : State, StateInv s → step s = .next t → StateInv t

/-- From a state with the invariant no step faults, and none is refused but where TIME or TICK would
reach 2^64 (93_implementation_defined.md U9). -/
def Obligations.InvariantStatesNeverFault : Prop :=
  ∀ s : State, StateInv s →
    (∀ f, step s ≠ .fault f) ∧
    (∀ r, step s = .refused r → r = .counterWrap ∧
      (s.sys.time.toNat + 1 = 2 ^ 64 ∨ s.fts.tick.toNat + 1 = 2 ^ 64))

/-- Every execution of a block whose configuration meets its constraints, whatever its commands, order
and inputs: the queue never holds more than Q_CAP samples, every queued sample has been written
(42_audio.md R197), a transfer reads the front Frame only, and no step faults. -/
def Obligations.EveryExecutionIsSafe : Prop :=
  ∀ (c : Config) (s : State), c.Valid → Reachable c s →
    s.cfg = c ∧ s.mix.qCount.toNat ≤ c.qCap ∧
    (∀ k < s.mix.qCount.toNat, (s.mix.q.read (s.mix.slot c k)).isSome = true) ∧
    (s.dos.dstate ≠ .idle → s.dos.dsel = s.fbc.front) ∧
    (s.dos.fault = true → s.dos.dstate = .idle) ∧
    ∀ f, step s ≠ .fault f
end

