-- ==== Sys2Proof/Laws/State.lean ====
section
/-! SUPPORT. What each named update of the state does to each field, all true by definition: later proofs
cite these instead of unfolding a record update. -/

namespace Sys2Proof.Machine

variable (s : State)

/-! ### A response touches the RSP stream only -/

@[simp] theorem State.respond_cfg (c : Cond) (v : BitVec 64) : (s.respond c v).cfg = s.cfg := rfl
@[simp] theorem State.respond_fbc (c : Cond) (v : BitVec 64) : (s.respond c v).fbc = s.fbc := rfl
@[simp] theorem State.respond_dos (c : Cond) (v : BitVec 64) : (s.respond c v).dos = s.dos := rfl
@[simp] theorem State.respond_mix (c : Cond) (v : BitVec 64) : (s.respond c v).mix = s.mix := rfl
@[simp] theorem State.respond_inp (c : Cond) (v : BitVec 64) : (s.respond c v).inp = s.inp := rfl
@[simp] theorem State.respond_fts (c : Cond) (v : BitVec 64) : (s.respond c v).fts = s.fts := rfl
@[simp] theorem State.respond_sys (c : Cond) (v : BitVec 64) : (s.respond c v).sys = s.sys := rfl
@[simp] theorem State.respond_env (c : Cond) (v : BitVec 64) : (s.respond c v).env = s.env := rfl
@[simp] theorem State.respond_port (c : Cond) (v : BitVec 64) : (s.respond c v).port = s.port := rfl
@[simp] theorem State.respond_agenda (c : Cond) (v : BitVec 64) : (s.respond c v).agenda = s.agenda := rfl

/-! ### `setJob` touches the port only -/

@[simp] theorem State.setJob_cfg (j : Option Job) : (s.setJob j).cfg = s.cfg := rfl
@[simp] theorem State.setJob_fbc (j : Option Job) : (s.setJob j).fbc = s.fbc := rfl
@[simp] theorem State.setJob_dos (j : Option Job) : (s.setJob j).dos = s.dos := rfl
@[simp] theorem State.setJob_mix (j : Option Job) : (s.setJob j).mix = s.mix := rfl
@[simp] theorem State.setJob_inp (j : Option Job) : (s.setJob j).inp = s.inp := rfl
@[simp] theorem State.setJob_fts (j : Option Job) : (s.setJob j).fts = s.fts := rfl
@[simp] theorem State.setJob_sys (j : Option Job) : (s.setJob j).sys = s.sys := rfl
@[simp] theorem State.setJob_env (j : Option Job) : (s.setJob j).env = s.env := rfl
@[simp] theorem State.setJob_out (j : Option Job) : (s.setJob j).out = s.out := rfl
@[simp] theorem State.setJob_agenda (j : Option Job) : (s.setJob j).agenda = s.agenda := rfl

/-! ### `setCmd` touches the port only -/

@[simp] theorem State.setCmd_cfg (ws : List Word) : (s.setCmd ws).cfg = s.cfg := rfl
@[simp] theorem State.setCmd_fbc (ws : List Word) : (s.setCmd ws).fbc = s.fbc := rfl
@[simp] theorem State.setCmd_dos (ws : List Word) : (s.setCmd ws).dos = s.dos := rfl
@[simp] theorem State.setCmd_mix (ws : List Word) : (s.setCmd ws).mix = s.mix := rfl
@[simp] theorem State.setCmd_inp (ws : List Word) : (s.setCmd ws).inp = s.inp := rfl
@[simp] theorem State.setCmd_fts (ws : List Word) : (s.setCmd ws).fts = s.fts := rfl
@[simp] theorem State.setCmd_sys (ws : List Word) : (s.setCmd ws).sys = s.sys := rfl
@[simp] theorem State.setCmd_env (ws : List Word) : (s.setCmd ws).env = s.env := rfl
@[simp] theorem State.setCmd_out (ws : List Word) : (s.setCmd ws).out = s.out := rfl
@[simp] theorem State.setCmd_agenda (ws : List Word) : (s.setCmd ws).agenda = s.agenda := rfl

/-! ### `setSticky` touches the system state only -/

@[simp] theorem State.setSticky_cfg (b : BitVec 3) : (s.setSticky b).cfg = s.cfg := rfl
@[simp] theorem State.setSticky_fbc (b : BitVec 3) : (s.setSticky b).fbc = s.fbc := rfl
@[simp] theorem State.setSticky_dos (b : BitVec 3) : (s.setSticky b).dos = s.dos := rfl
@[simp] theorem State.setSticky_mix (b : BitVec 3) : (s.setSticky b).mix = s.mix := rfl
@[simp] theorem State.setSticky_inp (b : BitVec 3) : (s.setSticky b).inp = s.inp := rfl
@[simp] theorem State.setSticky_fts (b : BitVec 3) : (s.setSticky b).fts = s.fts := rfl
@[simp] theorem State.setSticky_env (b : BitVec 3) : (s.setSticky b).env = s.env := rfl
@[simp] theorem State.setSticky_out (b : BitVec 3) : (s.setSticky b).out = s.out := rfl
@[simp] theorem State.setSticky_port (b : BitVec 3) : (s.setSticky b).port = s.port := rfl
@[simp] theorem State.setSticky_agenda (b : BitVec 3) : (s.setSticky b).agenda = s.agenda := rfl

/-! ### `modifyChan` touches the mixer only -/

@[simp] theorem State.modifyChan_cfg (ch : BitVec 8) (f : Channel → Channel) : (s.modifyChan ch f).cfg = s.cfg := rfl
@[simp] theorem State.modifyChan_fbc (ch : BitVec 8) (f : Channel → Channel) : (s.modifyChan ch f).fbc = s.fbc := rfl
@[simp] theorem State.modifyChan_dos (ch : BitVec 8) (f : Channel → Channel) : (s.modifyChan ch f).dos = s.dos := rfl
@[simp] theorem State.modifyChan_inp (ch : BitVec 8) (f : Channel → Channel) : (s.modifyChan ch f).inp = s.inp := rfl
@[simp] theorem State.modifyChan_fts (ch : BitVec 8) (f : Channel → Channel) : (s.modifyChan ch f).fts = s.fts := rfl
@[simp] theorem State.modifyChan_sys (ch : BitVec 8) (f : Channel → Channel) : (s.modifyChan ch f).sys = s.sys := rfl
@[simp] theorem State.modifyChan_env (ch : BitVec 8) (f : Channel → Channel) : (s.modifyChan ch f).env = s.env := rfl
@[simp] theorem State.modifyChan_out (ch : BitVec 8) (f : Channel → Channel) : (s.modifyChan ch f).out = s.out := rfl
@[simp] theorem State.modifyChan_port (ch : BitVec 8) (f : Channel → Channel) : (s.modifyChan ch f).port = s.port := rfl
@[simp] theorem State.modifyChan_agenda (ch : BitVec 8) (f : Channel → Channel) : (s.modifyChan ch f).agenda = s.agenda := rfl

/-! ### `push` touches the mixer only -/

@[simp] theorem State.push_cfg (v : Sample) : (s.push v).cfg = s.cfg := rfl
@[simp] theorem State.push_fbc (v : Sample) : (s.push v).fbc = s.fbc := rfl
@[simp] theorem State.push_dos (v : Sample) : (s.push v).dos = s.dos := rfl
@[simp] theorem State.push_inp (v : Sample) : (s.push v).inp = s.inp := rfl
@[simp] theorem State.push_fts (v : Sample) : (s.push v).fts = s.fts := rfl
@[simp] theorem State.push_sys (v : Sample) : (s.push v).sys = s.sys := rfl
@[simp] theorem State.push_env (v : Sample) : (s.push v).env = s.env := rfl
@[simp] theorem State.push_out (v : Sample) : (s.push v).out = s.out := rfl
@[simp] theorem State.push_port (v : Sample) : (s.push v).port = s.port := rfl
@[simp] theorem State.push_agenda (v : Sample) : (s.push v).agenda = s.agenda := rfl

/-! ### `emitPanel` touches the PANEL stream only -/

@[simp] theorem State.emitPanel_cfg (x : PanelItem) : (s.emitPanel x).cfg = s.cfg := rfl
@[simp] theorem State.emitPanel_fbc (x : PanelItem) : (s.emitPanel x).fbc = s.fbc := rfl
@[simp] theorem State.emitPanel_dos (x : PanelItem) : (s.emitPanel x).dos = s.dos := rfl
@[simp] theorem State.emitPanel_mix (x : PanelItem) : (s.emitPanel x).mix = s.mix := rfl
@[simp] theorem State.emitPanel_inp (x : PanelItem) : (s.emitPanel x).inp = s.inp := rfl
@[simp] theorem State.emitPanel_fts (x : PanelItem) : (s.emitPanel x).fts = s.fts := rfl
@[simp] theorem State.emitPanel_sys (x : PanelItem) : (s.emitPanel x).sys = s.sys := rfl
@[simp] theorem State.emitPanel_env (x : PanelItem) : (s.emitPanel x).env = s.env := rfl
@[simp] theorem State.emitPanel_port (x : PanelItem) : (s.emitPanel x).port = s.port := rfl
@[simp] theorem State.emitPanel_agenda (x : PanelItem) : (s.emitPanel x).agenda = s.agenda := rfl

/-! ### `doSwap` touches FBC and DOS only -/

@[simp] theorem doSwap_cfg : (doSwap s).cfg = s.cfg := rfl
@[simp] theorem doSwap_mix : (doSwap s).mix = s.mix := rfl
@[simp] theorem doSwap_inp : (doSwap s).inp = s.inp := rfl
@[simp] theorem doSwap_fts : (doSwap s).fts = s.fts := rfl
@[simp] theorem doSwap_sys : (doSwap s).sys = s.sys := rfl
@[simp] theorem doSwap_env : (doSwap s).env = s.env := rfl
@[simp] theorem doSwap_out : (doSwap s).out = s.out := rfl
@[simp] theorem doSwap_port : (doSwap s).port = s.port := rfl
@[simp] theorem doSwap_agenda : (doSwap s).agenda = s.agenda := rfl

/-! ### `popEvent` touches the agenda only -/

@[simp] theorem popEvent_cfg : (popEvent s).cfg = s.cfg := rfl
@[simp] theorem popEvent_fbc : (popEvent s).fbc = s.fbc := rfl
@[simp] theorem popEvent_dos : (popEvent s).dos = s.dos := rfl
@[simp] theorem popEvent_mix : (popEvent s).mix = s.mix := rfl
@[simp] theorem popEvent_inp : (popEvent s).inp = s.inp := rfl
@[simp] theorem popEvent_fts : (popEvent s).fts = s.fts := rfl
@[simp] theorem popEvent_sys : (popEvent s).sys = s.sys := rfl
@[simp] theorem popEvent_env : (popEvent s).env = s.env := rfl
@[simp] theorem popEvent_out : (popEvent s).out = s.out := rfl
@[simp] theorem popEvent_port : (popEvent s).port = s.port := rfl

/-! ### S_PRESENT touches FBC, DOS and FTS only -/

@[simp] theorem sPresent_cfg : (sPresent s).cfg = s.cfg := rfl
@[simp] theorem sPresent_mix : (sPresent s).mix = s.mix := rfl
@[simp] theorem sPresent_inp : (sPresent s).inp = s.inp := rfl
@[simp] theorem sPresent_sys : (sPresent s).sys = s.sys := rfl
@[simp] theorem sPresent_env : (sPresent s).env = s.env := rfl
@[simp] theorem sPresent_out : (sPresent s).out = s.out := rfl
@[simp] theorem sPresent_port : (sPresent s).port = s.port := rfl
@[simp] theorem sPresent_agenda : (sPresent s).agenda = s.agenda := rfl

/-! ### The fields the updates do write -/

@[simp] theorem State.respond_rsp (c : Cond) (v : BitVec 64) :
    (s.respond c v).out.rsp = s.out.rsp ++ [⟨c, v⟩] := rfl
@[simp] theorem State.respond_panel (c : Cond) (v : BitVec 64) :
    (s.respond c v).out.panel = s.out.panel := rfl
@[simp] theorem State.respond_pcm (c : Cond) (v : BitVec 64) :
    (s.respond c v).out.pcm = s.out.pcm := rfl
@[simp] theorem State.setJob_job (j : Option Job) : (s.setJob j).port.job = j := rfl
@[simp] theorem State.setJob_cmd (j : Option Job) : (s.setJob j).port.cmd = s.port.cmd := rfl
@[simp] theorem State.setCmd_cmd (ws : List Word) : (s.setCmd ws).port.cmd = ws := rfl
@[simp] theorem State.setCmd_job (ws : List Word) : (s.setCmd ws).port.job = s.port.job := rfl
@[simp] theorem State.setSticky_sticky (b : BitVec 3) :
    (s.setSticky b).sys.sticky = s.sys.sticky ||| b := rfl
@[simp] theorem State.setSticky_time (b : BitVec 3) : (s.setSticky b).sys.time = s.sys.time := rfl
@[simp] theorem State.setSticky_halted (b : BitVec 3) :
    (s.setSticky b).sys.halted = s.sys.halted := rfl
@[simp] theorem State.modifyChan_chans (ch : BitVec 8) (f : Channel → Channel) :
    (s.modifyChan ch f).mix.chans = s.mix.chans.modify ch.toNat f := rfl
@[simp] theorem State.modifyChan_smp (ch : BitVec 8) (f : Channel → Channel) :
    (s.modifyChan ch f).mix.smp = s.mix.smp := rfl
@[simp] theorem State.modifyChan_q (ch : BitVec 8) (f : Channel → Channel) :
    (s.modifyChan ch f).mix.q = s.mix.q := rfl
@[simp] theorem State.modifyChan_qWr (ch : BitVec 8) (f : Channel → Channel) :
    (s.modifyChan ch f).mix.qWr = s.mix.qWr := rfl
@[simp] theorem State.modifyChan_qRd (ch : BitVec 8) (f : Channel → Channel) :
    (s.modifyChan ch f).mix.qRd = s.mix.qRd := rfl
@[simp] theorem State.modifyChan_pcmOut (ch : BitVec 8) (f : Channel → Channel) :
    (s.modifyChan ch f).mix.pcmOut = s.mix.pcmOut := rfl
@[simp] theorem State.push_mix (v : Sample) : (s.push v).mix = enqueue s.cfg v s.mix := rfl
@[simp] theorem State.emitPanel_panel (x : PanelItem) :
    (s.emitPanel x).out.panel = s.out.panel ++ [x] := rfl
@[simp] theorem State.emitPanel_pcm (x : PanelItem) : (s.emitPanel x).out.pcm = s.out.pcm := rfl
@[simp] theorem State.emitPanel_rsp (x : PanelItem) : (s.emitPanel x).out.rsp = s.out.rsp := rfl
@[simp] theorem doSwap_front : (doSwap s).fbc.front = !s.fbc.front := rfl
@[simp] theorem doSwap_fb0 : (doSwap s).fbc.fb0 = s.fbc.fb0 := rfl
@[simp] theorem doSwap_fb1 : (doSwap s).fbc.fb1 = s.fbc.fb1 := rfl
@[simp] theorem doSwap_dstate : (doSwap s).dos.dstate = .armed := rfl
@[simp] theorem doSwap_xdone : (doSwap s).dos.xdone = false := rfl
@[simp] theorem doSwap_fault : (doSwap s).dos.fault = s.dos.fault := rfl
@[simp] theorem doSwap_dsel : (doSwap s).dos.dsel = !s.fbc.front := rfl
@[simp] theorem doSwap_dbytes :
    (doSwap s).dos.dbytes = BitVec.ofNat 32 s.cfg.frameBytes := rfl
@[simp] theorem doSwap_didx : (doSwap s).dos.didx = 0 := rfl
@[simp] theorem doSwap_tmoCnt : (doSwap s).dos.tmoCnt = 0 := rfl
@[simp] theorem popEvent_agenda_tail : (popEvent s).agenda = s.agenda.tail := rfl
@[simp] theorem enqueue_chans (c : Config) (v : Sample) (m : Mix) :
    (enqueue c v m).chans = m.chans := rfl
@[simp] theorem enqueue_smp (c : Config) (v : Sample) (m : Mix) : (enqueue c v m).smp = m.smp := rfl
@[simp] theorem enqueue_q (c : Config) (v : Sample) (m : Mix) :
    (enqueue c v m).q = m.q.write (m.qWr.toNat % c.qCap) v := rfl
@[simp] theorem enqueue_qWr (c : Config) (v : Sample) (m : Mix) :
    (enqueue c v m).qWr = m.qWr + 1 := rfl
@[simp] theorem enqueue_qRd (c : Config) (v : Sample) (m : Mix) : (enqueue c v m).qRd = m.qRd := rfl
@[simp] theorem enqueue_pcmOut (c : Config) (v : Sample) (m : Mix) :
    (enqueue c v m).pcmOut = m.pcmOut := rfl
@[simp] theorem sPresent_phase : (sPresent s).fts.phase = .waitingForVsync := rfl
@[simp] theorem sPresent_cbreq : (sPresent s).fts.cbreq = s.fts.cbreq := rfl
@[simp] theorem sPresent_tick : (sPresent s).fts.tick = s.fts.tick := rfl
@[simp] theorem sPresent_topupN : (sPresent s).fts.topupN = BitVec.ofNat 32 s.qFree := rfl
@[simp] theorem sPresent_fbc : (sPresent s).fbc = (doSwap s).fbc := rfl
@[simp] theorem sPresent_dos : (sPresent s).dos = (doSwap s).dos := rfl

end Sys2Proof.Machine
end

