-- ==== Sys2Proof/Laws/Memory.lean ====
section
/-! SUPPORT. The laws of the list memories and of Plot: a read after a write, the canonical form kept by
every memory operation, and what a sequence of Plot calls leaves in the frames. -/

namespace Sys2Proof

variable {w : Nat}

/-- A read of a memory with one entry in front. -/
theorem Memory.read_cons (i j : Nat) (v : BitVec w) (rest : Memory w) :
    Memory.read ((i, v) :: rest) j = if j = i then some v else Memory.read rest j := by
  unfold Memory.read
  rw [List.lookup_cons]
  by_cases h : j = i
  · subst h; simp
  · rw [if_neg h, beq_eq_false_iff_ne.2 h]

/-- A read after a write gives the value written at that index and the old value elsewhere. -/
theorem Memory.read_write (m : Memory w) (i j : Nat) (v : BitVec w) :
    (m.write i v).read j = if j = i then some v else m.read j := by
  induction m with
  | nil => simp [Memory.write, Memory.read_cons]
  | cons e rest ih =>
    obtain ⟨k, u⟩ := e
    simp only [Memory.write]
    split
    · rw [Memory.read_cons]
    · split
      · rename_i h
        rw [Memory.read_cons, Memory.read_cons, h]
        split <;> rfl
      · rename_i h
        rw [Memory.read_cons, Memory.read_cons, ih]
        by_cases hk : j = k
        · rw [if_pos hk, if_pos hk, if_neg (by omega)]
        · rw [if_neg hk, if_neg hk]

@[simp] theorem Memory.read_write_same (m : Memory w) (i : Nat) (v : BitVec w) :
    (m.write i v).read i = some v := by
  rw [Memory.read_write, if_pos rfl]

/-- A write leaves every other element alone. -/
theorem Memory.read_write_ne (m : Memory w) {i j : Nat} (v : BitVec w) (h : j ≠ i) :
    (m.write i v).read j = m.read j := by
  rw [Memory.read_write, if_neg h]

/-- The entries of a memory after a write: the new one or old ones. -/
theorem Memory.mem_write (m : Memory w) (i : Nat) (v : BitVec w) {e : Nat × BitVec w}
    (h : e ∈ m.write i v) : e = (i, v) ∨ e ∈ m := by
  induction m with
  | nil => simpa [Memory.write] using h
  | cons d rest ih =>
    obtain ⟨j, u⟩ := d
    simp only [Memory.write] at h
    split at h
    · simpa using h
    · split at h
      · rcases List.mem_cons.1 h with h | h
        · exact .inl h
        · exact .inr (List.mem_cons_of_mem _ h)
      · rcases List.mem_cons.1 h with h | h
        · exact .inr (h ▸ List.mem_cons_self ..)
        · exact (ih h).imp id (List.mem_cons_of_mem _)

/-- A write keeps the canonical form. -/
theorem Memory.write_wf (m : Memory w) (i : Nat) (v : BitVec w) (h : m.wf) : (m.write i v).wf := by
  induction m with
  | nil => simp [Memory.write]
  | cons d rest ih =>
    obtain ⟨j, u⟩ := d
    have h1 := (List.pairwise_cons.1 h).1
    have h2 := (List.pairwise_cons.1 h).2
    simp only [Memory.write]
    split
    · rename_i hij
      refine List.pairwise_cons.2 ⟨fun e he => ?_, h⟩
      rcases List.mem_cons.1 he with rfl | he
      · exact hij
      · exact Nat.lt_trans hij (h1 e he)
    · split
      · subst_vars
        exact List.pairwise_cons.2 ⟨h1, h2⟩
      · refine List.pairwise_cons.2 ⟨fun e he => ?_, ih h2⟩
        rcases Memory.mem_write rest i v he with rfl | he
        · show j < i
          omega
        · exact h1 e he

namespace Machine

/-- The reset state's memories are canonical. -/
theorem reset_memories_wf :
    Memory.wf State.reset.fbc.fb0 ∧ Memory.wf State.reset.fbc.fb1 ∧
      Memory.wf State.reset.mix.smp ∧ Memory.wf State.reset.mix.q := by
  decide

@[simp] theorem Fbc.frame_setFrame (f : Fbc) (k : Bool) (m : Memory 32) :
    (f.setFrame k m).frame k = m := by
  cases k <;> rfl

@[simp] theorem Fbc.frame_setFrame_not (f : Fbc) (k : Bool) (m : Memory 32) :
    (f.setFrame k m).frame (!k) = f.frame (!k) := by
  cases k <;> rfl

@[simp] theorem Fbc.front_setFrame (f : Fbc) (k : Bool) (m : Memory 32) :
    (f.setFrame k m).front = f.front := by
  cases k <;> rfl

/-- Everything Plot can do: nothing outside the Frame, one write into the back Frame inside it. -/
theorem plot_cases (c : Config) (f : Fbc) (x y : Int) (colour : Word) :
    (pixelIndex c x y = none ∧ plot c f x y colour = f) ∨
      ∃ i, pixelIndex c x y = some i ∧
        plot c f x y colour =
          f.setFrame f.back ((f.frame f.back).write i (c.pixel colour)) := by
  unfold plot
  cases h : pixelIndex c x y with
  | none => exact .inl ⟨rfl, rfl⟩
  | some i => exact .inr ⟨i, rfl, rfl⟩

@[simp] theorem plot_front (c : Config) (f : Fbc) (x y : Int) (colour : Word) :
    (plot c f x y colour).front = f.front := by
  rcases plot_cases c f x y colour with ⟨_, h⟩ | ⟨i, _, h⟩ <;> simp [h]

/-- Plot never changes the front Frame. -/
@[simp] theorem plot_frame_front (c : Config) (f : Fbc) (x y : Int) (colour : Word) :
    (plot c f x y colour).frame f.front = f.frame f.front := by
  rcases plot_cases c f x y colour with ⟨_, h⟩ | ⟨i, _, h⟩
  · rw [h]
  · rw [h]
    have := f.frame_setFrame_not f.back ((f.frame f.back).write i (c.pixel colour))
    simpa [Fbc.back] using this

/-- What the back Frame reads as after Plot. -/
theorem plot_read_back (c : Config) (f : Fbc) (x y : Int) (colour : Word) (i : Nat) :
    ((plot c f x y colour).frame f.back).read i =
      if pixelIndex c x y = some i then some (c.pixel colour) else (f.frame f.back).read i := by
  rcases plot_cases c f x y colour with ⟨h0, h⟩ | ⟨k, h0, h⟩
  · simp [h, h0]
  · rw [h, Fbc.frame_setFrame, Memory.read_write, h0]
    by_cases hk : i = k
    · simp [hk]
    · have : k ≠ i := fun e => hk e.symm
      simp [hk, this]

@[simp] theorem plotAll_nil (c : Config) (f : Fbc) : plotAll c [] f = f := rfl

@[simp] theorem plotAll_cons (c : Config) (p : Int × Int × Word) (ps : List (Int × Int × Word))
    (f : Fbc) : plotAll c (p :: ps) f = plotAll c ps (plot c f p.1 p.2.1 p.2.2) := rfl

@[simp] theorem plotAll_front (c : Config) (ps : List (Int × Int × Word)) (f : Fbc) :
    (plotAll c ps f).front = f.front := by
  induction ps generalizing f with
  | nil => rfl
  | cons p ps ih => rw [plotAll_cons, ih, plot_front]

/-- Drawing never changes the front Frame. -/
@[simp] theorem plotAll_frame_front (c : Config) (ps : List (Int × Int × Word)) (f : Fbc) :
    (plotAll c ps f).frame f.front = f.frame f.front := by
  induction ps generalizing f with
  | nil => rfl
  | cons p ps ih =>
    have := ih (plot c f p.1 p.2.1 p.2.2)
    rw [plot_front, plot_frame_front] at this
    rw [plotAll_cons, this]

end Machine

end Sys2Proof
end

