-- ==== Sys2Proof/Laws/Audio.lean ====
section
/-! SUPPORT. The laws of the mixer and of the sample queue: what a produced sample can change, when it
exists, saturation, and what Enqueue and a drain do to the cursors and to the queued elements. -/

namespace Sys2Proof.Machine

/-! ### Saturation and scaling -/

theorem sat16_toInt (a : Int) : (sat16 a).toInt = max (-32768) (min 32767 a) := by
  unfold sat16
  split
  · rw [BitVec.toInt_ofInt]
    norm_num [Int.bmod]
    omega
  · split
    · rw [BitVec.toInt_ofInt]
      norm_num [Int.bmod]
      omega
    · rw [BitVec.toInt_ofInt_eq_self (by decide) (by norm_num; omega) (by norm_num; omega)]
      omega

/-! ### One channel -/

/-- What producing a sample keeps of a channel: every setting; CUR, LFSR and ACTIVE may change. -/
def SameSettings (a b : Channel) : Prop :=
  b.kind = a.kind ∧ b.loop = a.loop ∧ b.vol = a.vol ∧ b.step = a.step ∧ b.pos0 = a.pos0 ∧
    b.tbase = a.tbase ∧ b.tlen = a.tlen

theorem SameSettings.chanOk {c : Config} {a b : Channel} (h : SameSettings a b) (ha : chanOk c a) :
    chanOk c b := by
  obtain ⟨_, _, hv, _, _, ht, hl⟩ := h
  unfold Machine.chanOk at *
  rw [hv, ht, hl]
  exact ha

theorem toneSample_settings (c : Config) (t : Tone) (ch : Channel) :
    SameSettings ch (toneSample c t ch).2 := ⟨rfl, rfl, rfl, rfl, rfl, rfl, rfl⟩

theorem tableAdvance_settings (ch : Channel) : SameSettings ch (tableAdvance ch) := by
  unfold tableAdvance
  split
  · split <;> exact ⟨rfl, rfl, rfl, rfl, rfl, rfl, rfl⟩
  · exact ⟨rfl, rfl, rfl, rfl, rfl, rfl, rfl⟩

/-- Everything `TableSample` can do (42_audio.md R183). -/
theorem tableSample_cases (c : Config) (m : Mix) (ch : Channel) :
    (ch.tlen.toNat ≤ ch.cur.toNat ∧ tableSample c m ch = some (0, { ch with active := false })) ∨
    (ch.cur.toNat < ch.tlen.toNat ∧ ch.tbase.toNat + ch.cur.toNat < c.smpSize ∧
      tableSample c m ch = some (m.smpAt (ch.tbase.toNat + ch.cur.toNat), tableAdvance ch)) ∨
    (ch.cur.toNat < ch.tlen.toNat ∧ c.smpSize ≤ ch.tbase.toNat + ch.cur.toNat ∧
      tableSample c m ch = none) := by
  unfold tableSample
  by_cases h1 : ch.tlen.toNat ≤ ch.cur.toNat
  · exact .inl ⟨h1, if_pos h1⟩
  · by_cases h2 : ch.tbase.toNat + ch.cur.toNat < c.smpSize
    · exact .inr (.inl ⟨by omega, h2, by rw [if_neg h1, if_pos h2]⟩)
    · exact .inr (.inr ⟨by omega, by omega, by rw [if_neg h1, if_neg h2]⟩)

theorem chanSample_settings {c : Config} {m : Mix} {ch : Channel} {r : Sample × Channel}
    (h : chanSample c m ch = some r) : SameSettings ch r.2 := by
  unfold chanSample at h
  split at h
  · cases h
    exact toneSample_settings ..
  · rcases tableSample_cases c m ch with ⟨_, e⟩ | ⟨_, _, e⟩ | ⟨_, _, e⟩
    · rw [e] at h
      cases h
      exact ⟨rfl, rfl, rfl, rfl, rfl, rfl, rfl⟩
    · rw [e] at h
      cases h
      exact tableAdvance_settings ch
    · rw [e] at h
      cases h

/-- A channel whose table lies in SMP always has a sample (20_memory.md R78). -/
theorem chanSample_isSome {c : Config} {m : Mix} {ch : Channel} (h : chanOk c ch) :
    (chanSample c m ch).isSome = true := by
  unfold chanSample
  split
  · rfl
  · rcases tableSample_cases c m ch with ⟨_, e⟩ | ⟨_, _, e⟩ | ⟨h1, h2, _⟩
    · rw [e]; rfl
    · rw [e]; rfl
    · have := h.2
      omega

theorem chanTerm_inactive {c : Config} {m : Mix} {ch : Channel} (h : ch.active = false) :
    chanTerm c m ch = some (0, ch) := by
  simp [chanTerm, h]

theorem chanTerm_active {c : Config} {m : Mix} {ch : Channel} (h : ch.active = true) :
    chanTerm c m ch = (chanSample c m ch).map fun r =>
      (r.1.toInt * (ch.vol.toNat : Int), r.2) := by
  simp [chanTerm, h]

theorem chanTerm_settings {c : Config} {m : Mix} {ch : Channel} {r : Int × Channel}
    (h : chanTerm c m ch = some r) : SameSettings ch r.2 := by
  cases ha : ch.active with
  | false =>
    rw [chanTerm_inactive ha] at h
    cases h
    exact ⟨rfl, rfl, rfl, rfl, rfl, rfl, rfl⟩
  | true =>
    rw [chanTerm_active ha] at h
    obtain ⟨r', hr, rfl⟩ := Option.map_eq_some_iff.1 h
    exact chanSample_settings hr

theorem chanTerm_isSome {c : Config} {m : Mix} {ch : Channel} (h : chanOk c ch) :
    (chanTerm c m ch).isSome = true := by
  cases ha : ch.active with
  | false => rw [chanTerm_inactive ha]; rfl
  | true => rw [chanTerm_active ha, Option.isSome_map]; exact chanSample_isSome h

/-! ### The whole channel file -/

theorem mixTerms_cons {c : Config} {m : Mix} {ch : Channel} {rest : List Channel}
    {r : Int × List Channel} :
    mixTerms c m (ch :: rest) = some r ↔
      ∃ a ch' b rest', chanTerm c m ch = some (a, ch') ∧ mixTerms c m rest = some (b, rest') ∧
        r = (a + b, ch' :: rest') := by
  rw [mixTerms]
  split
  · rename_i a ch' b rest' h1 h2
    simp only [h1, h2, Option.some.injEq, Prod.mk.injEq]
    constructor
    · rintro rfl
      exact ⟨_, _, _, _, ⟨rfl, rfl⟩, ⟨rfl, rfl⟩, rfl⟩
    · rintro ⟨_, _, _, _, ⟨rfl, rfl⟩, ⟨rfl, rfl⟩, rfl⟩
      rfl
  · rename_i hno
    constructor
    · rintro ⟨⟩
    · rintro ⟨a, ch', b, rest', h1, h2, _⟩
      exact absurd h2 (hno a ch' b rest' h1)

/-- The channel file after a sample: each channel what its own term leaves. -/
theorem mixTerms_forall₂ {c : Config} {m : Mix} {chans : List Channel} {r : Int × List Channel}
    (h : mixTerms c m chans = some r) :
    List.Forall₂ (fun ch ch' => ∃ a, chanTerm c m ch = some (a, ch')) chans r.2 := by
  induction chans generalizing r with
  | nil => cases h; exact .nil
  | cons ch rest ih =>
    obtain ⟨a, ch', b, rest', h1, h2, rfl⟩ := mixTerms_cons.1 h
    exact .cons ⟨a, h1⟩ (ih h2)

theorem mixTerms_isSome {c : Config} {m : Mix} {chans : List Channel}
    (h : ∀ ch ∈ chans, chanOk c ch) : ∃ r, mixTerms c m chans = some r := by
  induction chans with
  | nil => exact ⟨_, rfl⟩
  | cons ch rest ih =>
    obtain ⟨r1, h1⟩ := Option.isSome_iff_exists.1
      (chanTerm_isSome (m := m) (h ch (List.mem_cons_self ..)))
    obtain ⟨r2, h2⟩ := ih fun x hx => h x (List.mem_cons_of_mem _ hx)
    exact ⟨_, mixTerms_cons.2 ⟨r1.1, r1.2, r2.1, r2.2, h1, h2, rfl⟩⟩

/-- What `MixOne` can do: the sample is the saturated scaled sum, and only the channel file changes. -/
theorem mixOne_eq_some {c : Config} {m m' : Mix} {v : Sample} :
    mixOne c m = some (v, m') ↔
      ∃ acc chans, mixTerms c m m.chans = some (acc, chans) ∧ v = sat16 (scaleAcc acc) ∧
        m' = { m with chans := chans } := by
  unfold mixOne
  rw [Option.map_eq_some_iff]
  constructor
  · rintro ⟨⟨acc, chans⟩, h, e⟩
    cases e
    exact ⟨acc, chans, h, rfl, rfl⟩
  · rintro ⟨acc, chans, h, rfl, rfl⟩
    exact ⟨_, h, rfl⟩

/-- Everything a sample-step can do before its sample is used. -/
theorem withSample_cases (s : State) (use : Sample → State → Result) :
    (∃ v m, mixOne s.cfg s.mix = some (v, m) ∧ withSample s use = use v { s with mix := m }) ∨
    (mixOne s.cfg s.mix = none ∧ withSample s use = .fault .sampleIndexOutOfRange) := by
  unfold withSample
  cases h : mixOne s.cfg s.mix with
  | none => exact .inr ⟨rfl, rfl⟩
  | some r => exact .inl ⟨r.1, r.2, rfl, rfl⟩

/-- With every channel's table in SMP a sample always exists. -/
theorem mixOne_exists {c : Config} {m : Mix} (h : ∀ ch ∈ m.chans, chanOk c ch) :
    ∃ v m', mixOne c m = some (v, m') := by
  obtain ⟨r, hr⟩ := mixTerms_isSome (m := m) h
  exact ⟨_, _, mixOne_eq_some.2 ⟨r.1, r.2, hr, rfl, rfl⟩⟩

/-- A produced sample leaves SMP, the queue and PCM_OUT alone. -/
theorem mixOne_frame {c : Config} {m m' : Mix} {v : Sample} (h : mixOne c m = some (v, m')) :
    m'.smp = m.smp ∧ m'.q = m.q ∧ m'.qWr = m.qWr ∧ m'.qRd = m.qRd ∧ m'.pcmOut = m.pcmOut := by
  obtain ⟨_, _, _, _, rfl⟩ := mixOne_eq_some.1 h
  exact ⟨rfl, rfl, rfl, rfl, rfl⟩

theorem chanTerm_congr {c : Config} {m m' : Mix} {ch : Channel} (h : m'.smp = m.smp) :
    chanTerm c m' ch = chanTerm c m ch := by
  simp only [chanTerm, chanSample, tableSample, Mix.smpAt, h]

theorem mixTerms_congr {c : Config} {m m' : Mix} (h : m'.smp = m.smp) (chans : List Channel) :
    mixTerms c m' chans = mixTerms c m chans := by
  induction chans with
  | nil => rfl
  | cons ch rest ih => rw [mixTerms, mixTerms, chanTerm_congr h, ih]

/-- A produced sample depends on the channel file and SMP only. -/
theorem mixOne_congr {c : Config} {m m' : Mix} (hc : m'.chans = m.chans) (hs : m'.smp = m.smp) :
    mixOne c m' = (mixOne c m).map fun r => (r.1, { m' with chans := r.2.chans }) := by
  unfold mixOne
  rw [mixTerms_congr hs, hc, Option.map_map]
  rfl

@[simp] theorem mixTimes_zero (c : Config) (m : Mix) : mixTimes c 0 m = some ([], m) := rfl

/-- One more sample period in front. -/
theorem mixTimes_succ {c : Config} {n : Nat} {m : Mix} {r : List Sample × Mix} :
    mixTimes c (n + 1) m = some r ↔
      ∃ v m' vs, mixOne c m = some (v, m') ∧ mixTimes c n m' = some (vs, r.2) ∧ r.1 = v :: vs := by
  obtain ⟨rs, rm⟩ := r
  rw [mixTimes]
  cases h : mixOne c m with
  | none => simp
  | some q =>
    obtain ⟨v, m'⟩ := q
    cases h' : mixTimes c n m' with
    | none =>
      constructor
      · intro e; simp [h'] at e
      · rintro ⟨_, _, _, e, e', _⟩
        cases e
        rw [h'] at e'
        cases e'
    | some q' =>
      simp only [h', Option.some.injEq, Prod.mk.injEq]
      constructor
      · rintro ⟨rfl, rfl⟩
        exact ⟨v, m', q'.1, ⟨rfl, rfl⟩, h', rfl⟩
      · rintro ⟨_, _, vs, ⟨rfl, rfl⟩, e', rfl⟩
        obtain rfl := Option.some.inj (h'.symm.trans e')
        exact ⟨rfl, rfl⟩

/-- The samples of several periods depend on the channel file and SMP only. -/
theorem mixTimes_congr {c : Config} {n : Nat} {m m' : Mix} (hc : m'.chans = m.chans)
    (hs : m'.smp = m.smp) {r : List Sample × Mix} (h : mixTimes c n m = some r) :
    ∃ m'', mixTimes c n m' = some (r.1, m'') ∧ m''.chans = r.2.chans := by
  induction n generalizing m m' r with
  | zero =>
    cases h
    exact ⟨m', rfl, hc⟩
  | succ n ih =>
    obtain ⟨v, m1, vs, h1, h2, h3⟩ := mixTimes_succ.1 h
    obtain ⟨m2, h4, h5⟩ := ih (m := m1) (r := (vs, r.2)) (m' := { m' with chans := m1.chans }) rfl
      (hs.trans (mixOne_frame h1).1.symm) h2
    refine ⟨m2, mixTimes_succ.2 ⟨v, _, vs, ?_, h4, h3⟩, h5⟩
    rw [mixOne_congr hc hs, h1]
    rfl

/-- Several periods give as many samples. -/
theorem mixTimes_length {c : Config} {n : Nat} {m : Mix} {r : List Sample × Mix}
    (h : mixTimes c n m = some r) : r.1.length = n := by
  induction n generalizing m r with
  | zero => cases h; rfl
  | succ n ih =>
    obtain ⟨v, m1, vs, _, h2, h3⟩ := mixTimes_succ.1 h
    rw [h3, List.length_cons, ih h2]

/-! ### The queue -/

/-- The cursors of a full or partly filled queue (10_state.md R45). -/
theorem qCount_enqueue {c : Config} {m : Mix} {v : Sample} (hc : c.qCap ≤ 2 ^ 31)
    (h : m.qCount.toNat < c.qCap) : (enqueue c v m).qCount.toNat = m.qCount.toNat + 1 := by
  simp only [Mix.qCount, enqueue_qWr, enqueue_qRd] at *
  bv_omega

theorem qCount_drain {c : Config} {m : Mix} : (drain c m).qCount.toNat = m.qCount.toNat - 1 := by
  unfold drain
  split
  · rename_i h
    simp only [Mix.qCount] at *
    simp [h]
  · rename_i h
    simp only [Mix.qCount] at *
    bv_omega

/-- The slot of the next write is the slot at distance Q_COUNT. -/
theorem slot_qCount (c : Config) (m : Mix) : m.slot c m.qCount.toNat = m.qWr.toNat % c.qCap := by
  have : m.qRd + BitVec.ofNat 32 m.qCount.toNat = m.qWr := by
    simp only [Mix.qCount]
    bv_omega
  rw [Mix.slot, this]

/-- The slot at a distance, without the cursor's wrap: Q_CAP divides 2^32 (20_memory.md R72). -/
theorem slot_eq {c : Config} (m : Mix) (k : Nat) (hp : c.qCap = 2 ^ c.qCap.log2)
    (hc : c.qCap ≤ 2 ^ 31) : m.slot c k = (m.qRd.toNat + k) % c.qCap := by
  have hl : c.qCap.log2 ≤ 32 := by
    by_contra h
    have := Nat.pow_le_pow_right (n := 2) (by omega) (show 33 ≤ c.qCap.log2 by omega)
    omega
  have hd : c.qCap ∣ 2 ^ 32 := hp ▸ Nat.pow_dvd_pow 2 hl
  rw [Mix.slot, BitVec.toNat_add, BitVec.toNat_ofNat, Nat.add_mod_mod, Nat.mod_mod_of_dvd _ hd]

/-- Two slots less than Q_CAP apart are different. -/
theorem slot_ne {c : Config} {m : Mix} {j k : Nat} (hp : c.qCap = 2 ^ c.qCap.log2)
    (hc : c.qCap ≤ 2 ^ 31) (hj : j < k) (hk : k - j < c.qCap) : m.slot c j ≠ m.slot c k := by
  rw [slot_eq m j hp hc, slot_eq m k hp hc]
  intro h
  have := Nat.sub_mod_eq_zero_of_mod_eq h.symm
  rw [show m.qRd.toNat + k - (m.qRd.toNat + j) = k - j by omega,
    Nat.mod_eq_of_lt hk] at this
  omega

theorem slot_lt {c : Config} (m : Mix) (k : Nat) (h : 0 < c.qCap) : m.slot c k < c.qCap :=
  Nat.mod_lt _ h

@[simp] theorem enqueue_slot (c : Config) (v : Sample) (m : Mix) (k : Nat) :
    (enqueue c v m).slot c k = m.slot c k := rfl

/-- A drain moves the slots one place. -/
theorem drain_slot {c : Config} {m : Mix} (h : m.qCount ≠ 0) (k : Nat) :
    (drain c m).slot c k = m.slot c (k + 1) := by
  have : m.qRd + 1 + BitVec.ofNat 32 k = m.qRd + BitVec.ofNat 32 (k + 1) := by bv_omega
  simp only [drain, if_neg h, Mix.slot, this]

/-- What a slot holds after Enqueue: the new sample at distance Q_COUNT, the old ones before it. -/
theorem enqueue_read {c : Config} {m : Mix} {v : Sample} (hp : c.qCap = 2 ^ c.qCap.log2)
    (hc : c.qCap ≤ 2 ^ 31) {k : Nat} (hk : k ≤ m.qCount.toNat) (hf : m.qCount.toNat < c.qCap) :
    (enqueue c v m).q.read (m.slot c k) =
      if k = m.qCount.toNat then some v else m.q.read (m.slot c k) := by
  rw [enqueue_q, ← slot_qCount, Memory.read_write]
  by_cases h : k = m.qCount.toNat
  · rw [if_pos h, if_pos (by rw [h])]
  · rw [if_neg h, if_neg (slot_ne hp hc (by omega) (by omega))]

/-- Everything a drain keeps. -/
theorem drain_frame (c : Config) (m : Mix) :
    (drain c m).chans = m.chans ∧ (drain c m).smp = m.smp ∧ (drain c m).q = m.q ∧
      (drain c m).qWr = m.qWr := by
  unfold drain
  split <;> exact ⟨rfl, rfl, rfl, rfl⟩

end Sys2Proof.Machine
end

