-- ==== Sys2Proof/Laws/Exec.lean ====
section
/-! SUPPORT. What a command can do in its first step, said once: `command_cases` for what every command
does before its own rule, `ExecNext` and `exec_cases` for all 28. Every command answers a next state. -/

namespace Sys2Proof.Machine

/-! ### Before the rule of a command -/

theorem command_halted {i : Instr} {s : State} {run : State → Result} (h : s.sys.halted = true) :
    command i s run = .next s := by
  simp [command, h]

theorem command_illegal {i : Instr} {s : State} {run : State → Result} (h : s.sys.halted = false)
    (hl : legal i s = false) : command i s run = .next (s.respond .illegal 0) := by
  simp [command, h, hl, raise]

theorem command_legal {i : Instr} {s : State} {run : State → Result} (h : s.sys.halted = false)
    (hl : legal i s = true) : command i s run = run s := by
  simp [command, h, hl]

/-- Everything a command can do: nothing while halted, `Illegal`, or its rule. -/
theorem command_cases (i : Instr) (s : State) (run : State → Result) :
    (s.sys.halted = true ∧ command i s run = .next s) ∨
    (s.sys.halted = false ∧ legal i s = false ∧ command i s run = .next (s.respond .illegal 0)) ∨
    (s.sys.halted = false ∧ legal i s = true ∧ command i s run = run s) := by
  cases hh : s.sys.halted with
  | true => exact .inl ⟨rfl, command_halted hh⟩
  | false =>
    cases hl : legal i s with
    | false => exact .inr (.inl ⟨rfl, rfl, command_illegal hh hl⟩)
    | true => exact .inr (.inr ⟨rfl, rfl, command_legal hh hl⟩)

/-- The waveform kinds are the operands 0 to 4 (42_audio.md R171). -/
theorem kindOfNat_isSome (k : Nat) : (kindOfNat k).isSome = decide (k ≤ 4) := by
  match k with
  | 0 | 1 | 2 | 3 | 4 => rfl
  | k + 5 => simp [kindOfNat]

theorem kindOfNat_code {k : Nat} {kd : Kind} :
    kindOfNat k = some kd ↔ (kindCode kd).toNat = k := by
  match k with
  | 0 | 1 | 2 | 3 | 4 =>
    cases kd with
    | tone t => cases t <;> decide
    | sample => decide
  | k + 5 =>
    cases kd with
    | tone t => cases t <;> simp [kindOfNat, kindCode]
    | sample => simp [kindOfNat, kindCode]

/-! ### The rules of the commands -/

/-- What a control command writes into the channel it names (42_audio.md R171 to R178), with the bounds its
legality gives. -/
inductive ChannelWrite (c : Config) : Instr → BitVec 8 → (Channel → Channel) → Prop
  | kind (ch : BitVec 8) (k : Half) (kd : Kind) : kindOfNat k.toNat = some kd →
      ChannelWrite c (.chwave ch k) ch fun x => { x with kind := kd }
  | vol (ch : BitVec 8) (v : Half) : v.toNat ≤ 256 →
      ChannelWrite c (.chvol ch v) ch fun x => { x with vol := v.setWidth 9 }
  | step (ch : BitVec 8) (v : Word) :
      ChannelWrite c (.chfreq ch v) ch fun x => { x with step := v }
  | pos (ch : BitVec 8) (v : Word) :
      ChannelWrite c (.chpos ch v) ch fun x => { x with pos0 := v }
  | start (ch : BitVec 8) :
      ChannelWrite c (.chstart ch) ch fun x => { x with cur := x.pos0, lfsr := 1, active := true }
  | stop (ch : BitVec 8) :
      ChannelWrite c (.chstop ch) ch fun x => { x with active := false }
  | loop (ch : BitVec 8) (f : Half) : f.toNat ≤ 1 →
      ChannelWrite c (.chloop ch f) ch fun x => { x with loop := f.getLsbD 0 }
  | table (ch : BitVec 8) (b l : Word) : b.toNat + l.toNat ≤ c.smpSize →
      ChannelWrite c (.chtable ch b l) ch fun x => { x with tbase := b, tlen := l }

/-- The next states of a command that is legal while the block is not halted, one constructor for each kind
of effect. -/
inductive Effect (s : State) : Instr → State → Prop
  /-- A response and no change: BACK, DCOMP, DTRY, RDREG, and the failures of SWAP and DWAIT. -/
  | answer (i : Instr) (c : Cond) (v : BitVec 64) : c = .ok ∨ v = 0 → c ≠ .illegal →
      Effect s i (s.respond c v)
  /-- PSET, LINE, RECT, BLIT, TEXT. -/
  | draw (i : Instr) (points : List (Int × Int × Word)) :
      Effect s i ({ s with fbc := plotAll s.cfg points s.fbc }.respond .ok 0)
  /-- SWAP that succeeds. -/
  | swap : s.fts.phase = .idle → s.dos.dstate = .idle → s.dos.fault = false →
      Effect s .swap ((doSwap s).respond .ok (doSwap s).backVal)
  /-- SWAP that holds. -/
  | holdSwap : s.fts.phase = .idle → s.dos.dstate ≠ .idle → s.dos.fault = false →
      s.cfg.swapBlock = true → Effect s .swap (s.setJob (some .swap))
  /-- DWAIT that holds. -/
  | holdDwait : s.dos.dstate ≠ .idle → Effect s .dwait (s.setJob (some .dwait))
  /-- DCLR. -/
  | dclr : Effect s .dclr ({ s with dos := { s.dos with fault := false } }.respond .ok 0)
  /-- DRESET. -/
  | dreset : Effect s .dreset
      ({ s with dos := { s.dos with dstate := .idle, xdone := false, fault := false, dbytes := 0,
                                    didx := 0, tmoCnt := 0 } }.respond .ok 0)
  /-- The control commands. -/
  | channel (i : Instr) (ch : BitVec 8) (f : Channel → Channel) : ch.toNat < s.cfg.nCh →
      ChannelWrite s.cfg i ch f → Effect s i ((s.modifyChan ch f).respond .ok 0)
  /-- A production command with nothing to produce. -/
  | nothing (i : Instr) : Effect s i ((s.setJob none).respond .ok 0)
  /-- MIXT that finds room. -/
  | mixt : BitVec.ofNat 32 s.qFree ≠ 0 →
      Effect s .mixt (s.setJob (some (.mixt (BitVec.ofNat 32 s.qFree) (BitVec.ofNat 32 s.qFree))))
  /-- MIXD with something to produce. -/
  | mixd (n : Half) : n ≠ 0 → Effect s (.mixd n) (s.setJob (some (.mixd (n.setWidth 32) 0)))
  /-- MIXW with something to produce. -/
  | mixw (n : Half) : n ≠ 0 →
      Effect s (.mixw n) (s.setJob (some (.mixw (n.setWidth 32) (n.setWidth 32))))
  /-- INSAMPLE. -/
  | insample : s.fts.phase = .idle → Effect s .insample ((sampleInputs s).respond
      (if s.env.btnValid then .ok else .inputReadFailure)
      ((sampleInputs s).inp.level.setWidth 64))
  /-- RUN. -/
  | run : s.fts.phase = .idle → s.fts.cbreq = .none →
      Effect s .run ({ s with fts := { s.fts with cbreq := .init } }.respond .ok 0)
  /-- CBRET. -/
  | cbret (v : Word) : s.fts.cbreq ≠ .none →
      Effect s (.cbret v) ({ s with fts := callbackReturned v s.fts }.respond .ok 0)
  /-- PANIC. -/
  | panic : Effect s .panic ({ s with sys := { s.sys with halted := true } }.respond .ok 0)

theorem exec_halted {i : Instr} {s : State} (h : s.sys.halted = true) : exec i s = .next s := by
  cases i <;>
    simp only [exec, command_halted h, execBack, execSwap, execPset, execLine, execRect, execBlit, execText, execDcomp,
      execDwait, execDtry, execDclr, execDreset, execChwave, execChvol, execChfreq, execChpos,
      execChstart, execChstop, execChloop, execChtable, execMixt, execMixd, execMixw,
      execInsample, execRun, execCbret, execPanic, execRdreg]

theorem exec_illegal {i : Instr} {s : State} (h : s.sys.halted = false) (hl : legal i s = false) :
    exec i s = .next (s.respond .illegal 0) := by
  cases i <;>
    simp only [exec, command_illegal h hl, execBack, execSwap, execPset, execLine, execRect, execBlit, execText, execDcomp,
      execDwait, execDtry, execDclr, execDreset, execChwave, execChvol, execChfreq, execChpos,
      execChstart, execChstop, execChloop, execChtable, execMixt, execMixd, execMixw,
      execInsample, execRun, execCbret, execPanic, execRdreg]

/-- A command that is legal while the block is not halted has one of its effects. -/
theorem exec_effect {i : Instr} {s : State} (run : s.sys.halted = false) (hl : legal i s = true) :
    ∃ t, Effect s i t ∧ exec i s = .next t := by
  have channel {j : Instr} {ch : BitVec 8} {f : Channel → Channel} (hc : ch.toNat < s.cfg.nCh)
      (hw : ChannelWrite s.cfg j ch f) :
      ∃ t, Effect s j t ∧ done 0 (s.modifyChan ch f) = .next t :=
    ⟨_, .channel j ch f hc hw, rfl⟩
  cases i with
  | back =>
    simp only [exec, execBack, command_legal run hl]
    exact ⟨_, .answer _ .ok _ (.inl rfl) (by decide), rfl⟩
  | swap =>
    simp only [exec, execSwap, command_legal run hl]
    have hp : s.fts.phase = .idle := by simpa [legal] using hl
    by_cases hf : s.dos.fault = true
    · exact ⟨_, .answer _ .hardwareFault 0 (.inr rfl) (by decide), by rw [if_pos hf]; rfl⟩
    · have hf' : s.dos.fault = false := by simpa using hf
      by_cases hd : s.dos.dstate = .idle
      · exact ⟨_, .swap hp hd hf', by rw [if_neg hf, if_pos hd]; rfl⟩
      · by_cases hb : s.cfg.swapBlock = true
        · exact ⟨_, .holdSwap hp hd hf' hb, by rw [if_neg hf, if_neg hd, if_pos hb]⟩
        · exact ⟨_, .answer _ .notReady 0 (.inr rfl) (by decide),
            by rw [if_neg hf, if_neg hd, if_neg hb]; rfl⟩
  | pset x y colour =>
    simp only [exec, execPset, command_legal run hl]
    exact ⟨_, .draw _ _, rfl⟩
  | line x0 y0 x1 y1 colour =>
    simp only [exec, execLine, command_legal run hl]
    exact ⟨_, .draw _ _, rfl⟩
  | rect x y w h colour =>
    simp only [exec, execRect, command_legal run hl]
    exact ⟨_, .draw _ _, rfl⟩
  | blit x y w h data =>
    simp only [exec, execBlit, command_legal run hl]
    exact ⟨_, .draw _ _, rfl⟩
  | text x y colour chars =>
    simp only [exec, execText, command_legal run hl]
    exact ⟨_, .draw _ _, rfl⟩
  | dcomp =>
    simp only [exec, execDcomp, command_legal run hl]
    exact ⟨_, .answer _ .ok _ (.inl rfl) (by decide), rfl⟩
  | dwait =>
    simp only [exec, execDwait, command_legal run hl]
    by_cases hd : s.dos.dstate = .idle
    · by_cases hf : s.dos.fault = true
      · exact ⟨_, .answer _ .hardwareFault 0 (.inr rfl) (by decide),
          by rw [if_pos hd, if_pos hf]; rfl⟩
      · exact ⟨_, .answer _ .ok 0 (.inl rfl) (by decide), by rw [if_pos hd, if_neg hf]; rfl⟩
    · exact ⟨_, .holdDwait hd, by rw [if_neg hd]⟩
  | dtry =>
    simp only [exec, execDtry, command_legal run hl]
    by_cases hd : s.dos.dstate = .idle
    · by_cases hf : s.dos.fault = true
      · exact ⟨_, .answer _ .hardwareFault 0 (.inr rfl) (by decide),
          by rw [if_neg (not_not.2 hd), if_pos hf]; rfl⟩
      · exact ⟨_, .answer _ .ok 0 (.inl rfl) (by decide),
          by rw [if_neg (not_not.2 hd), if_neg hf]; rfl⟩
    · exact ⟨_, .answer _ .notReady 0 (.inr rfl) (by decide), by rw [if_pos hd]; rfl⟩
  | dclr =>
    simp only [exec, execDclr, command_legal run hl]
    exact ⟨_, .dclr, rfl⟩
  | dreset =>
    simp only [exec, execDreset, command_legal run hl]
    exact ⟨_, .dreset, rfl⟩
  | chwave ch kind =>
    simp only [exec, execChwave, command_legal run hl]
    have hl : ch.toNat < s.cfg.nCh ∧ kind.toNat ≤ 4 := by simpa [legal] using hl
    have hs : (kindOfNat kind.toNat).isSome = true := by rw [kindOfNat_isSome]; simpa using hl.2
    obtain ⟨kd, hk⟩ := Option.isSome_iff_exists.1 hs
    obtain ⟨t, ht, e⟩ := channel hl.1 (.kind ch kind kd hk)
    exact ⟨t, ht, by simp only [hk]; exact e⟩
  | chvol ch vol =>
    simp only [exec, execChvol, command_legal run hl]
    have hl : ch.toNat < s.cfg.nCh ∧ vol.toNat ≤ 256 := by simpa [legal] using hl
    exact channel hl.1 (.vol ch vol hl.2)
  | chfreq ch v =>
    simp only [exec, execChfreq, command_legal run hl]
    exact channel (by simpa [legal] using hl) (.step ch v)
  | chpos ch v =>
    simp only [exec, execChpos, command_legal run hl]
    exact channel (by simpa [legal] using hl) (.pos ch v)
  | chstart ch =>
    simp only [exec, execChstart, command_legal run hl]
    exact channel (by simpa [legal] using hl) (.start ch)
  | chstop ch =>
    simp only [exec, execChstop, command_legal run hl]
    exact channel (by simpa [legal] using hl) (.stop ch)
  | chloop ch flag =>
    simp only [exec, execChloop, command_legal run hl]
    have hl : ch.toNat < s.cfg.nCh ∧ flag.toNat ≤ 1 := by simpa [legal] using hl
    exact channel hl.1 (.loop ch flag hl.2)
  | chtable ch base len =>
    simp only [exec, execChtable, command_legal run hl]
    have hl : ch.toNat < s.cfg.nCh ∧ base.toNat + len.toNat ≤ s.cfg.smpSize := by
      simpa [legal] using hl
    exact channel hl.1 (.table ch base len hl.2)
  | mixt =>
    simp only [exec, execMixt, command_legal run hl]
    by_cases h0 : BitVec.ofNat 32 s.qFree = 0
    · exact ⟨_, .nothing _, by rw [mixtLoop, if_pos h0, h0]; rfl⟩
    · exact ⟨_, .mixt h0, by rw [mixtLoop, if_neg h0]⟩
  | mixd n =>
    simp only [exec, execMixd, command_legal run hl]
    by_cases h0 : n = 0
    · subst h0; exact ⟨_, .nothing _, rfl⟩
    · have : n.setWidth 32 ≠ 0 := fun e => h0 (by bv_omega)
      exact ⟨_, .mixd n h0, by rw [mixdLoop, if_neg this]⟩
  | mixw n =>
    simp only [exec, execMixw, command_legal run hl]
    by_cases h0 : n = 0
    · subst h0; exact ⟨_, .nothing _, rfl⟩
    · have : n.setWidth 32 ≠ 0 := fun e => h0 (by bv_omega)
      exact ⟨_, .mixw n h0, by rw [mixwLoop, if_neg this]⟩
  | insample =>
    simp only [exec, execInsample, command_legal run hl]
    refine ⟨_, .insample (by simpa [legal] using hl), ?_⟩
    by_cases hv : s.env.btnValid = true
    · simp only [hv, if_true]; rfl
    · simp only [hv]; rfl
  | run =>
    simp only [exec, execRun, command_legal run hl]
    have hl : s.fts.phase = .idle ∧ s.fts.cbreq = .none := by simpa [legal] using hl
    exact ⟨_, .run hl.1 hl.2, rfl⟩
  | cbret v =>
    simp only [exec, execCbret, command_legal run hl]
    exact ⟨_, .cbret v (by simpa [legal] using hl), rfl⟩
  | panic =>
    simp only [exec, execPanic, command_legal run hl]
    exact ⟨_, .panic, rfl⟩
  | rdreg n =>
    simp only [exec, execRdreg, command_legal run hl]
    obtain ⟨v, hv⟩ := Option.isSome_iff_exists.1 (show (s.reg n.toNat).isSome = true from hl)
    exact ⟨_, .answer _ .ok v (.inl rfl) (by decide), by simp only [hv]; rfl⟩

/-- Everything a command can do: it always answers a next state, which is the old one while halted, the
`Illegal` answer when it is not legal, and else an `Effect` of the command. -/
theorem exec_cases (i : Instr) (s : State) :
    (s.sys.halted = true ∧ exec i s = .next s) ∨
    (s.sys.halted = false ∧ legal i s = false ∧ exec i s = .next (s.respond .illegal 0)) ∨
    (s.sys.halted = false ∧ legal i s = true ∧ ∃ t, Effect s i t ∧ exec i s = .next t) := by
  cases h : s.sys.halted with
  | true => exact .inl ⟨rfl, exec_halted h⟩
  | false =>
    cases hl : legal i s with
    | false => exact .inr (.inl ⟨rfl, rfl, exec_illegal h hl⟩)
    | true => exact .inr (.inr ⟨rfl, rfl, exec_effect h hl⟩)

/-- A command always answers a next state. -/
theorem exec_next (i : Instr) (s : State) : ∃ t, exec i s = .next t := by
  rcases exec_cases i s with ⟨_, e⟩ | ⟨_, _, e⟩ | ⟨_, _, t, _, e⟩ <;> exact ⟨_, e⟩

end Sys2Proof.Machine
end

