-- ==== Sys2Proof/Laws/Input.lean ====
section
/-! SUPPORT. The laws of the debouncer: the sampled snapshot button by button. -/

namespace Sys2Proof.Machine

@[simp] theorem bitsBelow_getLsbD (f : Nat → Bool) (n b : Nat) (hn : n ≤ 32) :
    (bitsBelow f n).getLsbD b = (decide (b < n) && f b) := by
  induction n with
  | zero => simp [bitsBelow]
  | succ n ih =>
    rw [bitsBelow, BitVec.getLsbD_or, ih (by omega)]
    by_cases hb : b = n
    · subst hb
      cases hf : f b
      · simp
      · simp [BitVec.getLsbD_twoPow]
        omega
    · have : ((if f n = true then BitVec.twoPow 32 n else 0) : BitVec 32).getLsbD b = false := by
        split
        · rw [BitVec.getLsbD_twoPow]
          simp [show n ≠ b from fun e => hb e.symm]
        · simp
      rw [this, Bool.or_false]
      congr 1
      by_cases h : b < n
      · simp [h, show b < n + 1 by omega]
      · simp [h, show ¬ b < n + 1 by omega]

/-- A vector below 2^n has no bit at or above `n`. -/
theorem toNat_lt_iff_getLsbD {v : BitVec 32} {n : Nat} :
    v.toNat < 2 ^ n ↔ ∀ b, n ≤ b → v.getLsbD b = false := by
  constructor
  · intro h b hb
    exact Nat.testBit_lt_two_pow (Nat.lt_of_lt_of_le h (Nat.pow_le_pow_right (by omega) hb))
  · exact fun h => Nat.lt_pow_two_of_testBit _ h

/-- The level after a sample, button by button (43_input.md R211). -/
theorem sampled_level (p : Inp) (c : Config) (raw : BitVec 32) (b : Nat) (hc : c.nBtn ≤ 32) :
    (p.sampled c raw).level.getLsbD b =
      (p.level.getLsbD b ^^ (decide (b < c.nBtn) && p.flips c.dbWin raw b)) := by
  simp [Inp.sampled, hc]

theorem sampled_press (p : Inp) (c : Config) (raw : BitVec 32) (b : Nat) :
    (p.sampled c raw).press.getLsbD b =
      ((p.sampled c raw).level.getLsbD b && (decide (b < 32) && !p.level.getLsbD b)) := by
  simp [Inp.sampled]

theorem sampled_rel (p : Inp) (c : Config) (raw : BitVec 32) (b : Nat) :
    (p.sampled c raw).rel.getLsbD b =
      ((decide (b < 32) && !(p.sampled c raw).level.getLsbD b) && p.level.getLsbD b) := by
  simp [Inp.sampled]

theorem sampled_dbCnt_length (p : Inp) (c : Config) (raw : BitVec 32) :
    (p.sampled c raw).dbCnt.length = c.nBtn := by
  simp [Inp.sampled]

/-- The counter after a sample (43_input.md R211). -/
theorem sampled_dbCnt (p : Inp) (c : Config) (raw : BitVec 32) {b : Nat} (hb : b < c.nBtn) :
    (p.sampled c raw).dbCnt[b]? = some (p.nextCount c.dbWin raw b) := by
  simp [Inp.sampled, hb]

/-- A counter stays below the window (10_state.md R49). -/
theorem nextCount_lt (p : Inp) (win : Nat) (raw : BitVec 32) (b : Nat) (h1 : 1 ≤ win)
    (h2 : win < 2 ^ 16) : (p.nextCount win raw b).toNat < win := by
  unfold Inp.nextCount
  split
  · rename_i h
    simp only [Inp.flips, Bool.and_eq_true, Bool.not_eq_true', Bool.and_eq_false_iff,
      decide_eq_false_iff_not] at h
    obtain ⟨h0, h⟩ := h
    have : ¬ win ≤ p.count b + 1 := by
      rcases h with h | h
      · simp [h0] at h
      · exact h
    rw [BitVec.toNat_ofNat]
    omega
  · simpa using by omega

@[simp] theorem sampleSeq_nil (c : Config) (p : Inp) : sampleSeq c [] p = p := rfl

@[simp] theorem sampleSeq_cons (c : Config) (raw : BitVec 32) (raws : List (BitVec 32)) (p : Inp) :
    sampleSeq c (raw :: raws) p = sampleSeq c raws (p.sampled c raw) := rfl

/-- Everything `Sample()` can do: the snapshot and the counters together, or no change but INFAIL. -/
theorem sampleInputs_cases (s : State) :
    (s.env.btnValid = true ∧
      sampleInputs s = { s with inp := s.inp.sampled s.cfg s.env.btnRaw }) ∨
    (s.env.btnValid = false ∧ sampleInputs s =
      ({ s with inp := { s.inp with press := 0, rel := 0 } }).setSticky stickyInfail) := by
  unfold sampleInputs
  cases s.env.btnValid with
  | true => exact .inl ⟨rfl, rfl⟩
  | false => exact .inr ⟨rfl, rfl⟩

end Sys2Proof.Machine
end

