-- ==== Sys2Proof/Laws/Agents.lean ====
section
/-! SUPPORT. What one turn of each agent can do, said once for each turn and for `step`. -/

namespace Sys2Proof.Machine

/-! ### The step -/

theorem step_valid {s : State} (h : s.cfg.Valid) : step s = turn (nextEvent s) (popEvent s) := by
  exact if_pos h

/-- A step is a turn of the agent the agenda names, of a valid configuration. -/
theorem step_eq_next {s t : State} :
    step s = .next t ↔ s.cfg.Valid ∧ turn (nextEvent s) (popEvent s) = .next t := by
  unfold step
  split
  · rename_i h
    exact ⟨fun e => ⟨h, e⟩, fun e => e.2⟩
  · rename_i h
    exact ⟨fun e => (by cases e), fun e => absurd e.1 h⟩

/-! ### HOST -/

/-- Everything a turn of HOST can do. -/
theorem hostTurn_cases (s : State) :
    (s.sys.halted = true ∧ hostTurn s = .next (s.setCmd (s.port.cmd.drop 1))) ∨
    (s.sys.halted = false ∧ ∃ j, s.port.job = some j ∧ hostTurn s = continueJob j s) ∨
    (s.sys.halted = false ∧ s.port.job = none ∧
      ((∃ i rest, decode s.port.cmd = .command i rest ∧ hostTurn s = exec i (s.setCmd rest)) ∨
        (∃ why rest, decode s.port.cmd = .illegal why rest ∧
          hostTurn s = .next ((s.setCmd rest).respond .illegal 0)) ∨
        (decode s.port.cmd = .incomplete ∧ hostTurn s = .next s))) := by
  unfold hostTurn
  cases hh : s.sys.halted with
  | true => exact .inl ⟨rfl, rfl⟩
  | false =>
    cases hj : s.port.job with
    | some j => exact .inr (.inl ⟨rfl, j, rfl, rfl⟩)
    | none =>
      refine .inr (.inr ⟨rfl, rfl, ?_⟩)
      simp only [issueCommand]
      cases hd : decode s.port.cmd with
      | command i rest => exact .inl ⟨i, rest, rfl, rfl⟩
      | illegal why rest => exact .inr (.inl ⟨why, rest, rfl, rfl⟩)
      | incomplete => exact .inr (.inr ⟨rfl, rfl⟩)

/-- Everything the step of a held SWAP can do. -/
theorem continueSwap_cases (s : State) :
    (s.dos.dstate ≠ .idle ∧ continueSwap s = .next s) ∨
    (s.dos.dstate = .idle ∧ s.dos.fault = true ∧
      continueSwap s = .next ((s.setJob none).respond .hardwareFault 0)) ∨
    (s.dos.dstate = .idle ∧ s.dos.fault = false ∧ continueSwap s =
      .next ((doSwap (s.setJob none)).respond .ok (doSwap (s.setJob none)).backVal)) := by
  unfold continueSwap
  by_cases hd : s.dos.dstate = .idle
  · cases hf : s.dos.fault with
    | true => exact .inr (.inl ⟨hd, rfl, by rw [if_pos hd]; rfl⟩)
    | false => exact .inr (.inr ⟨hd, rfl, by rw [if_pos hd]; rfl⟩)
  · exact .inl ⟨hd, if_neg hd⟩

/-- Everything the step of a held DWAIT can do. -/
theorem continueDwait_cases (s : State) :
    (s.dos.dstate ≠ .idle ∧ continueDwait s = .next s) ∨
    (s.dos.dstate = .idle ∧ s.dos.fault = true ∧
      continueDwait s = .next ((s.setJob none).respond .hardwareFault 0)) ∨
    (s.dos.dstate = .idle ∧ s.dos.fault = false ∧
      continueDwait s = .next ((s.setJob none).respond .ok 0)) := by
  unfold continueDwait
  by_cases hd : s.dos.dstate = .idle
  · cases hf : s.dos.fault with
    | true => exact .inr (.inl ⟨hd, rfl, by rw [if_pos hd]; rfl⟩)
    | false => exact .inr (.inr ⟨hd, rfl, by rw [if_pos hd]; rfl⟩)
  · exact .inl ⟨hd, if_neg hd⟩

/-- What `MixOne` makes of the state, with the sample in the queue. -/
def State.made (s : State) (v : Sample) (m : Mix) : State := ({ s with mix := m }).push v

@[simp] theorem mixtLoop_zero (k : Word) (s : State) :
    mixtLoop k 0 s = .next ((s.setJob none).respond .ok (k.setWidth 64)) := rfl

theorem mixtLoop_more (k : Word) {left : Word} (h : left ≠ 0) (s : State) :
    mixtLoop k left s = .next (s.setJob (some (.mixt k left))) := if_neg h

@[simp] theorem mixwLoop_zero (n : Word) (s : State) :
    mixwLoop n 0 s = .next ((s.setJob none).respond .ok (n.setWidth 64)) := rfl

theorem mixwLoop_more (n : Word) {left : Word} (h : left ≠ 0) (s : State) :
    mixwLoop n left s = .next (s.setJob (some (.mixw n left))) := if_neg h

@[simp] theorem mixdLoop_zero_zero (s : State) :
    mixdLoop 0 0 s = .next ((s.setJob none).respond .ok 0) := rfl

theorem mixdLoop_dropped {drop : Word} (h : drop ≠ 0) (s : State) :
    mixdLoop 0 drop s = .next ((s.setJob none).respond .bufferOverrun (drop.setWidth 64)) := by
  simp only [mixdLoop, if_true, if_neg h]
  rfl

theorem mixdLoop_more {left : Word} (h : left ≠ 0) (drop : Word) (s : State) :
    mixdLoop left drop s = .next (s.setJob (some (.mixd left drop))) := if_neg h

/-- Everything a sample-step of MIXT with samples left can do. -/
theorem continueMixt_cases (k : Word) {left : Word} (h : left ≠ 0) (s : State) :
    (s.qFull = true ∧ continueMixt k left s = .fault .enqueueOnFullQueue) ∨
    (s.qFull = false ∧ mixOne s.cfg s.mix = none ∧
      continueMixt k left s = .fault .sampleIndexOutOfRange) ∨
    (s.qFull = false ∧ ∃ v m, mixOne s.cfg s.mix = some (v, m) ∧
      continueMixt k left s = mixtLoop k (left - 1) (s.made v m)) := by
  unfold continueMixt
  rw [if_neg h]
  cases hq : s.qFull with
  | true => exact .inl ⟨rfl, rfl⟩
  | false =>
    rcases withSample_cases s fun v s => mixtLoop k (left - 1) (s.push v) with
      ⟨v, m, e, e'⟩ | ⟨e, e'⟩
    · exact .inr (.inr ⟨rfl, v, m, e, e'⟩)
    · exact .inr (.inl ⟨rfl, e, e'⟩)

/-- Everything a sample-step of MIXD with samples left can do. -/
theorem continueMixd_cases {left : Word} (drop : Word) (h : left ≠ 0) (s : State) :
    (mixOne s.cfg s.mix = none ∧ continueMixd left drop s = .fault .sampleIndexOutOfRange) ∨
    (∃ v m, mixOne s.cfg s.mix = some (v, m) ∧
      ((s.qFull = true ∧ continueMixd left drop s =
          mixdLoop (left - 1) (drop + 1) (({ s with mix := m }).setSticky stickyOverrun)) ∨
        (s.qFull = false ∧
          continueMixd left drop s = mixdLoop (left - 1) drop (s.made v m)))) := by
  unfold continueMixd
  rw [if_neg h]
  rcases withSample_cases s fun v s =>
      if s.qFull then mixdLoop (left - 1) (drop + 1) (s.setSticky stickyOverrun)
      else mixdLoop (left - 1) drop (s.push v) with ⟨v, m, e, e'⟩ | ⟨e, e'⟩
  · refine .inr ⟨v, m, e, ?_⟩
    have hq : ({ s with mix := m } : State).qFull = s.qFull := by
      obtain ⟨_, _, h1, h2, _⟩ := mixOne_frame e
      simp only [State.qFull, Mix.qCount, h1, h2]
      rfl
    simp only [hq] at e'
    cases hf : s.qFull with
    | true => exact .inl ⟨rfl, e'.trans (if_pos hf)⟩
    | false => exact .inr ⟨rfl, e'.trans (if_neg (by simp [hf]))⟩
  · exact .inl ⟨e, e'⟩

/-- Everything a step of MIXW with samples left can do. -/
theorem continueMixw_cases (n : Word) {left : Word} (h : left ≠ 0) (s : State) :
    (s.qFull = true ∧ continueMixw n left s = .next s) ∨
    (s.qFull = false ∧ mixOne s.cfg s.mix = none ∧
      continueMixw n left s = .fault .sampleIndexOutOfRange) ∨
    (s.qFull = false ∧ ∃ v m, mixOne s.cfg s.mix = some (v, m) ∧
      continueMixw n left s = mixwLoop n (left - 1) (s.made v m)) := by
  unfold continueMixw
  rw [if_neg h]
  cases hq : s.qFull with
  | true => exact .inl ⟨rfl, rfl⟩
  | false =>
    rcases withSample_cases s fun v s => mixwLoop n (left - 1) (s.push v) with
      ⟨v, m, e, e'⟩ | ⟨e, e'⟩
    · exact .inr (.inr ⟨rfl, v, m, e, e'⟩)
    · exact .inr (.inl ⟨rfl, e, e'⟩)

/-! ### SCHED -/

/-- Everything a turn of SCHED can do. -/
theorem schedTurn_cases (s : State) :
    schedTurn s = .next s ∨
    (s.sys.halted = false ∧ s.port.job = none ∧
      ((s.fts.phase = .sampling ∧ schedTurn s = .next (sSample s)) ∨
        (s.fts.phase = .presenting ∧ s.dos.dstate = .idle ∧ s.dos.fault = false ∧
          schedTurn s = .next (sPresent s)) ∨
        (s.fts.phase = .waitingForVsync ∧ s.fts.topupN ≠ 0 ∧ schedTurn s = sTopup s) ∨
        (s.fts.phase = .waitingForVsync ∧ s.fts.topupN = 0 ∧ paceOver s = true ∧
          schedTurn s = sNext s))) := by
  unfold schedTurn
  cases hh : s.sys.halted with
  | true => exact .inl rfl
  | false =>
    cases hj : s.port.job with
    | some j => exact .inl rfl
    | none =>
      simp only [Bool.or_self, Option.isSome_none, Bool.false_eq_true, if_false]
      cases hp : s.fts.phase with
      | idle => exact .inl rfl
      | updating => exact .inl rfl
      | drawing => exact .inl rfl
      | sampling => exact .inr ⟨trivial, trivial, .inl ⟨rfl, rfl⟩⟩
      | presenting =>
        cases he : presentEnabled s with
        | false => exact .inl (by simp)
        | true =>
          have : s.dos.dstate = .idle ∧ s.dos.fault = false := by
            simpa [presentEnabled] using he
          exact .inr ⟨trivial, trivial, .inr (.inl ⟨rfl, this.1, this.2, by simp⟩)⟩
      | waitingForVsync =>
        by_cases ht : s.fts.topupN = 0
        · cases hw : paceOver s with
          | false => exact .inl (by simp [ht])
          | true => exact .inr ⟨trivial, trivial, .inr (.inr (.inr ⟨rfl, ht, rfl, by simp [ht]⟩))⟩
        · exact .inr ⟨trivial, trivial, .inr (.inr (.inl ⟨rfl, ht, if_pos ht⟩))⟩

/-- Everything S_TOPUP can do. -/
theorem sTopup_cases (s : State) :
    (s.qFull = true ∧ sTopup s = .next { s with fts := { s.fts with topupN := 0 } }) ∨
    (s.qFull = false ∧ mixOne s.cfg s.mix = none ∧ sTopup s = .fault .sampleIndexOutOfRange) ∨
    (s.qFull = false ∧ ∃ v m, mixOne s.cfg s.mix = some (v, m) ∧
      sTopup s = .next { s.made v m with fts := { s.fts with topupN := s.fts.topupN - 1 } }) := by
  unfold sTopup
  cases hq : s.qFull with
  | true => exact .inl ⟨rfl, rfl⟩
  | false =>
    rcases withSample_cases s fun v s =>
        let t := s.push v
        .next { t with fts := { t.fts with topupN := t.fts.topupN - 1 } } with
      ⟨v, m, e, e'⟩ | ⟨e, e'⟩
    · exact .inr (.inr ⟨rfl, v, m, e, e'⟩)
    · exact .inr (.inl ⟨rfl, e, e'⟩)

/-- Everything S_NEXT can do. -/
theorem sNext_cases (s : State) :
    (s.fts.tick.toNat + 1 < 2 ^ 64 ∧ sNext s =
      .next { s with fts := { s.fts with tick := s.fts.tick + 1, phase := .sampling } }) ∨
    (s.fts.tick.toNat + 1 = 2 ^ 64 ∧ sNext s = .refused .counterWrap) := by
  unfold sNext
  by_cases h : s.fts.tick.toNat + 1 < 2 ^ 64
  · exact .inl ⟨h, if_pos h⟩
  · have := s.fts.tick.isLt
    exact .inr ⟨by omega, if_neg h⟩

/-! ### DMAD, DMAA and the timebase -/

/-- Everything D_BEGIN can do. -/
theorem dBegin_cases (s : State) :
    (s.sys.halted = false ∧ s.dos.dstate = .armed ∧
      dBegin s = ({ s with dos := { s.dos with dstate := .active } }).emitPanel .sof) ∨
    ((s.sys.halted = true ∨ s.dos.dstate ≠ .armed) ∧ dBegin s = s) := by
  unfold dBegin
  by_cases h : s.sys.halted = false ∧ s.dos.dstate = .armed
  · exact .inl ⟨h.1, h.2, if_pos h⟩
  · refine .inr ⟨?_, if_neg h⟩
    by_cases h0 : s.sys.halted = false
    · exact .inr fun e => h ⟨h0, e⟩
    · exact .inl (by simpa using h0)

theorem dWordEnabled_iff (s : State) :
    dWordEnabled s = true ↔ s.sys.halted = false ∧ s.dos.dstate = .active ∧
      s.env.panelAck = true ∧ s.dos.didx.toNat * s.cfg.pixelBytes < s.dos.dbytes.toNat := by
  simp [dWordEnabled, and_assoc]

/-- Everything D_WORD can do. -/
theorem dWord_cases (s : State) :
    (dWordEnabled s = false ∧ dWord s = .next s) ∨
    (dWordEnabled s = true ∧ s.cfg.nPix ≤ s.dos.didx.toNat ∧
      dWord s = .fault .frameIndexOutOfRange) ∨
    (dWordEnabled s = true ∧ s.dos.didx.toNat < s.cfg.nPix ∧ dWord s =
      .next (({ s with dos := dWordCount s.cfg s.dos }).emitPanel
        (.word (s.cfg.wire (s.framePixel s.dos.dsel s.dos.didx.toNat))))) := by
  unfold dWord
  cases he : dWordEnabled s with
  | false => exact .inl ⟨rfl, rfl⟩
  | true =>
    by_cases h : s.dos.didx.toNat < s.cfg.nPix
    · exact .inr (.inr ⟨rfl, h, by simp [h]⟩)
    · exact .inr (.inl ⟨rfl, by omega, by simp [h]⟩)

/-- Everything the register part of D_WORD can do. -/
theorem dWordCount_cases (c : Config) (d : Dos) :
    ((d.didx.toNat + 1) * c.pixelBytes = d.dbytes.toNat ∧ dWordCount c d =
      { d with didx := BitVec.ofNat 32 (d.didx.toNat + 1), dstate := .idle, xdone := true }) ∨
    ((d.didx.toNat + 1) * c.pixelBytes ≠ d.dbytes.toNat ∧ dWordCount c d =
      { d with didx := BitVec.ofNat 32 (d.didx.toNat + 1) }) := by
  unfold dWordCount
  by_cases h : (d.didx.toNat + 1) * c.pixelBytes = d.dbytes.toNat
  · exact .inl ⟨h, if_pos h⟩
  · exact .inr ⟨h, if_neg h⟩

/-- Everything the timeout part of TB can do. -/
theorem countTimeout_cases (s : State) :
    ((s.sys.halted = true ∨ s.dos.dstate = .idle) ∧ countTimeout s = s) ∨
    (s.sys.halted = false ∧ s.dos.dstate ≠ .idle ∧
      s.dos.tmoCnt.toNat + 1 < s.cfg.xferTimeout ∧ countTimeout s =
        { s with dos := { s.dos with tmoCnt := BitVec.ofNat 32 (s.dos.tmoCnt.toNat + 1) } }) ∨
    (s.sys.halted = false ∧ s.dos.dstate ≠ .idle ∧
      s.cfg.xferTimeout ≤ s.dos.tmoCnt.toNat + 1 ∧ countTimeout s =
        ({ s with dos := { s.dos with tmoCnt := BitVec.ofNat 32 (s.dos.tmoCnt.toNat + 1),
                                      dstate := .idle, fault := true } }).setSticky
          stickyHwfault) := by
  unfold countTimeout
  by_cases h : s.sys.halted = false ∧ s.dos.dstate ≠ .idle
  · rw [if_pos h]
    by_cases ht : s.cfg.xferTimeout ≤ s.dos.tmoCnt.toNat + 1
    · exact .inr (.inr ⟨h.1, h.2, ht, if_pos ht⟩)
    · exact .inr (.inl ⟨h.1, h.2, by omega, if_neg ht⟩)
  · refine .inl ⟨?_, if_neg h⟩
    by_cases h0 : s.sys.halted = false
    · exact .inr (by by_contra e; exact h ⟨h0, e⟩)
    · exact .inl (by simpa using h0)

/-- Everything TB can do. -/
theorem tbStep_cases (s : State) :
    (s.sys.time.toNat + 1 < 2 ^ 64 ∧ tbStep s =
      .next (countTimeout { s with sys := { s.sys with time := s.sys.time + 1 } })) ∨
    (s.sys.time.toNat + 1 = 2 ^ 64 ∧ tbStep s = .refused .counterWrap) := by
  unfold tbStep
  by_cases h : s.sys.time.toNat + 1 < 2 ^ 64
  · exact .inl ⟨h, if_pos h⟩
  · have := s.sys.time.isLt
    exact .inr ⟨by omega, if_neg h⟩

/-- Everything A_DRAIN can do. -/
theorem aDrain_cases (s : State) :
    (s.sys.halted = true ∧ aDrain s = s) ∨
    (s.sys.halted = false ∧ aDrain s = { s with
      mix := drain s.cfg s.mix
      out := { s.out with pcm := s.out.pcm ++ [(drain s.cfg s.mix).pcmOut] } }) := by
  unfold aDrain
  cases s.sys.halted with
  | true => exact .inl ⟨rfl, rfl⟩
  | false => exact .inr ⟨rfl, rfl⟩

end Sys2Proof.Machine
end

