-- ==== Sys2Proof/Laws/Decode.lean ====
section
/-! SUPPORT. The laws of the encoding: what the fields of a built word are, that a word is built from its
fields, what a matched header says, and that character words carry their characters. -/

namespace Sys2Proof

/-! ### Words and their fields, as numbers -/

theorem pairWord_toNat (high low : Half) :
    (pairWord high low).toNat = high.toNat * 2 ^ 16 + low.toNat := by
  have h := BitVec.toNat_append high low
  rw [← Nat.shiftLeft_add_eq_or_of_lt low.isLt, Nat.shiftLeft_eq] at h
  exact h

theorem header_toNat (opc a : BitVec 8) (imm : Half) :
    (header opc a imm).toNat = opc.toNat * 2 ^ 24 + a.toNat * 2 ^ 16 + imm.toNat := by
  have h := BitVec.toNat_append (opc ++ a) imm
  have h2 := BitVec.toNat_append opc a
  rw [← Nat.shiftLeft_add_eq_or_of_lt a.isLt, Nat.shiftLeft_eq] at h2
  rw [← Nat.shiftLeft_add_eq_or_of_lt imm.isLt, Nat.shiftLeft_eq, h2] at h
  exact h.trans (by omega)

theorem lowHalf_toNat (v : Word) : (lowHalf v).toNat = v.toNat % 2 ^ 16 := by
  simp [lowHalf, BitVec.extractLsb'_toNat]

theorem highHalf_toNat (v : Word) : (highHalf v).toNat = v.toNat / 2 ^ 16 := by
  have := v.isLt
  simp [highHalf, BitVec.extractLsb'_toNat, Nat.shiftRight_eq_div_pow]
  omega

theorem opcField_toNat (v : Word) : (opcField v).toNat = v.toNat / 2 ^ 24 := by
  have := v.isLt
  simp [opcField, BitVec.extractLsb'_toNat, Nat.shiftRight_eq_div_pow]
  omega

theorem aField_toNat (v : Word) : (aField v).toNat = v.toNat / 2 ^ 16 % 2 ^ 8 := by
  simp [aField, BitVec.extractLsb'_toNat, Nat.shiftRight_eq_div_pow]

/-! ### A field of a built word is the field it was built from -/

@[simp] theorem lowHalf_pairWord (high low : Half) : lowHalf (pairWord high low) = low := by
  apply BitVec.eq_of_toNat_eq
  have := low.isLt
  rw [lowHalf_toNat, pairWord_toNat]
  omega

@[simp] theorem highHalf_pairWord (high low : Half) : highHalf (pairWord high low) = high := by
  apply BitVec.eq_of_toNat_eq
  have := low.isLt
  rw [highHalf_toNat, pairWord_toNat]
  omega

@[simp] theorem opcField_header (opc a : BitVec 8) (imm : Half) :
    opcField (header opc a imm) = opc := by
  apply BitVec.eq_of_toNat_eq
  have := a.isLt
  have := imm.isLt
  rw [opcField_toNat, header_toNat]
  omega

@[simp] theorem aField_header (opc a : BitVec 8) (imm : Half) : aField (header opc a imm) = a := by
  apply BitVec.eq_of_toNat_eq
  have := a.isLt
  have := imm.isLt
  rw [aField_toNat, header_toNat]
  omega

@[simp] theorem lowHalf_header (opc a : BitVec 8) (imm : Half) :
    lowHalf (header opc a imm) = imm := by
  apply BitVec.eq_of_toNat_eq
  have := imm.isLt
  rw [lowHalf_toNat, header_toNat]
  omega

/-! ### A word is built from its fields -/

/-- A point or size word is its two fields. -/
@[simp] theorem pairWord_fields (v : Word) : pairWord (highHalf v) (lowHalf v) = v := by
  apply BitVec.eq_of_toNat_eq
  rw [pairWord_toNat, highHalf_toNat, lowHalf_toNat]
  omega

/-- A header word is its three fields. -/
@[simp] theorem header_fields (h : Word) : header (opcField h) (aField h) (lowHalf h) = h := by
  apply BitVec.eq_of_toNat_eq
  rw [header_toNat, opcField_toNat, aField_toNat, lowHalf_toNat]
  omega

/-! ### Matching a header against its row -/

/-- Each opcode number selects its opcode. -/
@[simp] theorem Opcode.ofNumber_number (op : Opcode) : Opcode.ofNumber op.number = some op := by
  cases op <;> rfl

/-- A number that selects an opcode is that opcode's number. -/
theorem Opcode.number_of_ofNumber {n : BitVec 8} {op : Opcode} (h : Opcode.ofNumber n = some op) :
    op.number = n := by
  revert h
  revert n op
  decide

/-- A mask acts on the three fields of a header. -/
theorem header_and (opc a opc' a' : BitVec 8) (imm imm' : Half) :
    header opc a imm &&& header opc' a' imm' =
      header (opc &&& opc') (a &&& a') (imm &&& imm') := by
  have outer := BitVec.and_append (x₁ := opc ++ a) (y₁ := imm) (x₂ := opc' ++ a') (y₂ := imm')
  have inner := BitVec.and_append (x₁ := opc) (y₁ := a) (x₂ := opc') (y₂ := a')
  exact outer.trans (congrArg (· ++ (imm &&& imm')) inner)

/-- Headers are equal exactly when their fields are. -/
theorem header_inj {opc a opc' a' : BitVec 8} {imm imm' : Half} :
    header opc a imm = header opc' a' imm' ↔ opc = opc' ∧ a = a' ∧ imm = imm' := by
  constructor
  · intro h
    have h1 := congrArg opcField h
    have h2 := congrArg aField h
    have h3 := congrArg lowHalf h
    simp only [opcField_header, aField_header, lowHalf_header] at h1 h2 h3
    exact ⟨h1, h2, h3⟩
  · rintro ⟨rfl, rfl, rfl⟩
    rfl

/-- A mask as the three fields it keeps (30_encoding.md R121). -/
theorem Format.mask_eq (f : Format) :
    f.mask = match f with
      | .z | .p | .l | .r | .b | .v => header 0xFF 0xFF 0xFFFF
      | .i | .t => header 0xFF 0xFF 0
      | .c => header 0xFF 0 0
      | .cZero | .cw1 | .cw2 => header 0xFF 0 0xFFFF := by
  cases f <;> decide

@[simp] theorem Half.and_full (v : Half) : v &&& 0xFFFF#16 = v := by
  have h : (0xFFFF#16) = BitVec.allOnes 16 := by decide
  rw [h, BitVec.and_allOnes]

@[simp] theorem Byte.and_full (v : BitVec 8) : v &&& 0xFF#8 = v := by
  have h : (0xFF#8) = BitVec.allOnes 8 := by decide
  rw [h, BitVec.and_allOnes]

/-- What a header that matches its row is: the reserved fields of the row's format are 0 (30_encoding.md
R117 case 2, R121). -/
theorem matched_header (op : Opcode) (h : Word) :
    h &&& op.format.mask = op.matchWord ↔
      opcField h = op.number ∧
      match op.format with
      | .z | .p | .l | .r | .b | .v => aField h = 0 ∧ lowHalf h = 0
      | .i | .t => aField h = 0
      | .c => True
      | .cZero | .cw1 | .cw2 => lowHalf h = 0 := by
  rw [← header_fields h, Format.mask_eq]
  cases op <;>
    simp [Opcode.format, Opcode.matchWord, header_and, header_inj, -header_fields]

/-! ### Characters -/

theorem packChars_length (cs : List CharCode) : (packChars cs).length = (cs.length + 3) / 4 := by
  fun_induction packChars cs <;> simp_all
  omega

/-- Character words carry their characters, the first in bits 7:0 (30_encoding.md R111). -/
theorem unpackChars_packChars (cs : List CharCode) : unpackChars cs.length (packChars cs) = cs := by
  have word (a b c d : CharCode) : charsOfWord (d ++ c ++ b ++ a) = [a, b, c, d] := by
    have key := BitVec.toNat_append (d ++ c ++ b) a
    have key2 := BitVec.toNat_append (d ++ c) b
    have key3 := BitVec.toNat_append d c
    rw [← Nat.shiftLeft_add_eq_or_of_lt a.isLt, Nat.shiftLeft_eq] at key
    rw [← Nat.shiftLeft_add_eq_or_of_lt b.isLt, Nat.shiftLeft_eq] at key2
    rw [← Nat.shiftLeft_add_eq_or_of_lt c.isLt, Nat.shiftLeft_eq] at key3
    have ha := a.isLt
    have hb := b.isLt
    have hc := c.isLt
    have hd := d.isLt
    have hw : (d ++ c ++ b ++ a : Word).toNat =
        ((d.toNat * 2 ^ 8 + c.toNat) * 2 ^ 8 + b.toNat) * 2 ^ 8 + a.toNat := by
      rw [← key3, ← key2]
      exact key
    simp only [charsOfWord, List.cons.injEq, and_true]
    refine ⟨?_, ?_, ?_, ?_⟩ <;> apply BitVec.eq_of_toNat_eq <;>
      rw [BitVec.extractLsb'_toNat, hw, Nat.shiftRight_eq_div_pow] <;> omega
  unfold unpackChars
  fun_induction packChars cs with
  | case1 => rfl
  | case2 a => rw [List.flatMap_cons, word]; rfl
  | case3 a b => rw [List.flatMap_cons, word]; rfl
  | case4 a b c => rw [List.flatMap_cons, word]; rfl
  | case5 a b c d rest ih => rw [List.flatMap_cons, word]; simpa using ih

theorem charsOfWord_length (v : Word) : (charsOfWord v).length = 4 := rfl

theorem unpackChars_length (len : Nat) (ws : List Word) :
    (unpackChars len ws).length = min len (4 * ws.length) := by
  have h : (ws.flatMap charsOfWord).length = 4 * ws.length := by
    induction ws with
    | nil => rfl
    | cons v vs ih => simp [ih, charsOfWord_length]; omega
  rw [unpackChars, List.length_take, h]

/-! ### The decoder -/

/-- The operand words `operandCount` asks for always make a command: the decoder never answers
`Rejection.operandWords`. -/
theorem assemble_isSome (op : Opcode) (h : Word) (after : List Word) (n : Nat)
    (hn : operandCount op.format h after = some n) (hl : n ≤ after.length) :
    (assemble op h (after.take n)).isSome = true := by
  have taken : (after.take n).length = n := by rw [List.length_take]; omega
  generalize after.take n = ops at taken
  cases op <;> simp only [Opcode.format, operandCount] at hn <;> try rfl
  all_goals
    first
    | (obtain rfl : _ = n := by simpa using hn
       first
       | (obtain ⟨a, rfl⟩ := List.length_eq_one_iff.1 taken; rfl)
       | (obtain ⟨a, b, rfl⟩ := List.length_eq_two.1 taken; rfl)
       | (obtain ⟨a, b, c, rfl⟩ := List.length_eq_three.1 taken; rfl))
    | skip
  all_goals
    have two : 2 ≤ n := by
      first
      | (split at hn <;> simp at hn; omega)
      | (simp at hn; omega)
    match ops, taken with
    | _ :: _ :: _, _ => rfl
    | [], ht => simp at ht; omega
    | [_], ht => simp at ht; omega

end Sys2Proof
end

