-- ==== Sys2Proof/Laws/Invariant.lean ====
section
/-! SUPPORT. Each part of the invariant of Safety.lean, kept by each operation that writes its unit. -/

namespace Sys2Proof

/-! ### What a valid configuration gives -/

theorem Config.Valid.nPix_pos {c : Config} (h : c.Valid) : 0 < c.nPix :=
  Nat.mul_pos h.1.1 h.2.1.1

theorem Config.Valid.pixelBytes_pos {c : Config} (h : c.Valid) : 0 < c.pixelBytes := by
  have := h.2.2.1.1
  unfold Config.pixelBytes
  omega

theorem Config.Valid.frameBytes_lt {c : Config} (h : c.Valid) : c.frameBytes < 2 ^ 32 := h.2.2.2.1

theorem Config.Valid.nPix_lt {c : Config} (h : c.Valid) : c.nPix < 2 ^ 32 :=
  Nat.lt_of_le_of_lt (Nat.le_mul_of_pos_right _ h.pixelBytes_pos) h.frameBytes_lt

theorem Config.Valid.qCap_pow {c : Config} (h : c.Valid) : c.qCap = 2 ^ c.qCap.log2 :=
  h.2.2.2.2.2.1.1

theorem Config.Valid.qCap_le {c : Config} (h : c.Valid) : c.qCap ≤ 2 ^ 31 := h.2.2.2.2.2.1.2

theorem Config.Valid.qCap_pos {c : Config} (h : c.Valid) : 0 < c.qCap := by
  rw [h.qCap_pow]
  exact Nat.two_pow_pos _

theorem Config.Valid.nBtn_le {c : Config} (h : c.Valid) : c.nBtn ≤ 32 := h.2.2.2.2.2.2.2.2.1.2

theorem Config.Valid.dbWin_pos {c : Config} (h : c.Valid) : 1 ≤ c.dbWin :=
  h.2.2.2.2.2.2.2.2.2.1.1

theorem Config.Valid.dbWin_lt {c : Config} (h : c.Valid) : c.dbWin < 2 ^ 16 :=
  h.2.2.2.2.2.2.2.2.2.1.2

theorem Config.Valid.xferTimeout_pos {c : Config} (h : c.Valid) : 1 ≤ c.xferTimeout :=
  h.2.2.2.2.2.2.2.2.2.2.1.1

theorem Config.Valid.xferTimeout_lt {c : Config} (h : c.Valid) : c.xferTimeout < 2 ^ 32 :=
  h.2.2.2.2.2.2.2.2.2.2.1.2

namespace Machine

/-! ### FBC -/

theorem pixel_lt (c : Config) (v : Word) : (c.pixel v).toNat < 2 ^ c.pixelBits := by
  rw [Config.pixel, BitVec.toNat_ofNat]
  exact Nat.lt_of_le_of_lt (Nat.mod_le _ _) (Nat.mod_lt _ (Nat.two_pow_pos _))

/-- Everything a pixel position names: an element inside the Frame, or nothing. -/
theorem pixelIndex_eq_some {c : Config} {x y : Int} {i : Nat} :
    pixelIndex c x y = some i ↔
      (0 ≤ x ∧ x < c.fbW ∧ 0 ≤ y ∧ y < c.fbH) ∧ (i : Int) = y * c.fbW + x := by
  unfold pixelIndex
  split
  · rename_i h
    rw [Option.some.injEq]
    have hy : ((y.toNat * c.fbW + x.toNat : Nat) : Int) = y * c.fbW + x := by
      push_cast
      rw [Int.toNat_of_nonneg h.1, Int.toNat_of_nonneg h.2.2.1]
    constructor
    · rintro rfl
      exact ⟨h, hy⟩
    · rintro ⟨_, e⟩
      exact_mod_cast hy.trans e.symm
  · rename_i h
    constructor
    · rintro ⟨⟩
    · exact fun e => absurd e.1 h

theorem pixelIndex_lt {c : Config} {x y : Int} {i : Nat} (h : pixelIndex c x y = some i) :
    i < c.nPix := by
  obtain ⟨⟨h1, h2, h3, h4⟩, e⟩ := pixelIndex_eq_some.1 h
  have h5 : y * c.fbW ≤ (c.fbH - 1) * c.fbW :=
    Int.mul_le_mul_of_nonneg_right (by omega) (by omega)
  have h6 : ((c.fbH : Int) - 1) * c.fbW = c.fbW * c.fbH - c.fbW := by ring
  have h7 : ((c.nPix : Nat) : Int) = c.fbW * c.fbH := by
    unfold Config.nPix
    push_cast
    rfl
  omega

theorem frameOk_nil (c : Config) : frameOk c [] := ⟨List.Pairwise.nil, by simp⟩

theorem frameOk_write {c : Config} {m : Memory 32} {i : Nat} (v : Word) (h : frameOk c m)
    (hi : i < c.nPix) : frameOk c (m.write i (c.pixel v)) := by
  refine ⟨Memory.write_wf _ _ _ h.1, fun e he => ?_⟩
  rcases Memory.mem_write _ _ _ he with rfl | he
  · exact ⟨hi, pixel_lt c v⟩
  · exact h.2 e he

theorem fbcOk_frame {c : Config} {f : Fbc} (h : fbcOk c f) (k : Bool) : frameOk c (f.frame k) := by
  cases k
  · exact h.1
  · exact h.2

theorem fbcOk_plot {c : Config} {f : Fbc} (x y : Int) (colour : Word) (h : fbcOk c f) :
    fbcOk c (plot c f x y colour) := by
  rcases plot_cases c f x y colour with ⟨_, e⟩ | ⟨i, hi, e⟩
  · rw [e]
    exact h
  · rw [e]
    have := frameOk_write colour (fbcOk_frame h f.back) (pixelIndex_lt hi)
    cases hb : f.back
    · rw [hb] at this
      exact ⟨this, h.2⟩
    · rw [hb] at this
      exact ⟨h.1, this⟩

theorem fbcOk_plotAll {c : Config} (points : List (Int × Int × Word)) {f : Fbc} (h : fbcOk c f) :
    fbcOk c (plotAll c points f) := by
  induction points generalizing f with
  | nil => exact h
  | cons p ps ih => exact ih (fbcOk_plot _ _ _ h)

/-! ### DOS -/

/-- A sequencer that is idle meets the invariant whenever D_REMAIN is not negative. -/
theorem dosOk_idle {c : Config} {front : Bool} {d : Dos} (h : d.dstate = .idle)
    (hr : d.didx.toNat * c.pixelBytes ≤ d.dbytes.toNat) : dosOk c front d :=
  ⟨hr, fun _ => h, fun hn => absurd h hn, fun ha => by rw [h] at ha; cases ha⟩

theorem dosOk_doSwap {s : State} (hc : s.cfg.Valid) (hf : s.dos.fault = false) :
    dosOk s.cfg (doSwap s).fbc.front (doSwap s).dos := by
  have hb := hc.frameBytes_lt
  refine ⟨by simp, fun h => ?_, fun _ => ⟨rfl, ?_, ?_, ?_, rfl⟩, fun _ => rfl⟩
  · rw [doSwap_fault, hf] at h
    cases h
  · rw [doSwap_dbytes, BitVec.toNat_ofNat, Nat.mod_eq_of_lt hb]
  · simpa using hc.nPix_pos
  · exact hc.xferTimeout_pos

theorem dosOk_begin {c : Config} {front : Bool} {d : Dos} (h : dosOk c front d)
    (ha : d.dstate = .armed) : dosOk c front { d with dstate := .active } := by
  have hn : d.dstate ≠ .idle := by rw [ha]; decide
  refine ⟨h.1, fun hf => absurd (h.2.1 hf) hn, fun _ => h.2.2.1 hn, fun e => by cases e⟩

theorem dosOk_word {c : Config} {front : Bool} {d : Dos} (hc : c.Valid) (h : dosOk c front d)
    (ha : d.dstate = .active) : dosOk c front (dWordCount c d) := by
  have hn : d.dstate ≠ .idle := by rw [ha]; decide
  obtain ⟨h1, h2, h3, h4, h5⟩ := h.2.2.1 hn
  have hnp := hc.nPix_lt
  have hi : (BitVec.ofNat 32 (d.didx.toNat + 1)).toNat = d.didx.toNat + 1 := by
    rw [BitVec.toNat_ofNat]
    omega
  have hle : (d.didx.toNat + 1) * c.pixelBytes ≤ c.nPix * c.pixelBytes :=
    Nat.mul_le_mul_right _ (by omega)
  rcases dWordCount_cases c d with ⟨he, e⟩ | ⟨he, e⟩ <;> rw [e]
  · exact dosOk_idle rfl (by simp only [hi]; omega)
  · have hb : d.dbytes.toNat = c.nPix * c.pixelBytes := h2
    refine ⟨by simp only [hi]; omega, fun hf => absurd (h.2.1 hf) hn,
      fun _ => ⟨h1, h2, ?_, h4, h5⟩, fun e => by simp only [ha] at e; cases e⟩
    simp only [hi]
    rcases Nat.lt_or_ge (d.didx.toNat + 1) c.nPix with hlt | hge
    · exact hlt
    · exact absurd (by rw [hb, show d.didx.toNat + 1 = c.nPix by omega]) he

/-- The count of TB, short of the timeout. -/
theorem dosOk_count {c : Config} {front : Bool} {d : Dos} (hc : c.Valid) (h : dosOk c front d)
    (hn : d.dstate ≠ .idle) (ht : d.tmoCnt.toNat + 1 < c.xferTimeout) :
    dosOk c front { d with tmoCnt := BitVec.ofNat 32 (d.tmoCnt.toNat + 1) } := by
  obtain ⟨h1, h2, h3, h4, h5⟩ := h.2.2.1 hn
  have := hc.xferTimeout_lt
  refine ⟨h.1, h.2.1, fun _ => ⟨h1, h2, h3, ?_, h5⟩, h.2.2.2⟩
  simp only [BitVec.toNat_ofNat]
  omega

/-! ### MIX -/

theorem mixOk_channels {c : Config} {m : Mix} {chans : List Channel} (h : mixOk c m)
    (hl : chans.length = m.chans.length) (hs : ∀ ch ∈ chans, chanOk c ch) :
    mixOk c { m with chans := chans } :=
  ⟨hl.trans h.1, hs, h.2.2⟩

/-- A control command keeps the channel file's bounds (10_state.md R37, R42). -/
theorem chanOk_write {c : Config} {i : Instr} {ch : BitVec 8} {f : Channel → Channel}
    (h : ChannelWrite c i ch f) {x : Channel} (hx : chanOk c x) : chanOk c (f x) := by
  cases h with
  | kind => exact hx
  | vol _ v hv =>
    refine ⟨?_, hx.2⟩
    simp only [BitVec.toNat_setWidth]
    omega
  | step => exact hx
  | pos => exact hx
  | start => exact hx
  | stop => exact hx
  | loop => exact hx
  | table _ b l hb => exact ⟨hx.1, hb⟩

theorem mixOk_modifyChan {s : State} (h : mixOk s.cfg s.mix) (ch : BitVec 8)
    {f : Channel → Channel} (hf : ∀ x, chanOk s.cfg x → chanOk s.cfg (f x)) :
    mixOk s.cfg (s.modifyChan ch f).mix := by
  refine mixOk_channels h (List.length_modify ..) fun x hx => ?_
  obtain ⟨n, hn⟩ := List.mem_iff_getElem?.1 hx
  rw [List.getElem?_modify] at hn
  obtain ⟨y, hy, rfl⟩ := Option.map_eq_some_iff.1 hn
  have := h.2.1 y (List.mem_iff_getElem?.2 ⟨n, hy⟩)
  split
  · exact hf y this
  · exact this

theorem mixOk_mixOne {c : Config} {m m' : Mix} {v : Sample} (h : mixOk c m)
    (he : mixOne c m = some (v, m')) : mixOk c m' := by
  obtain ⟨acc, chans, ht, _, rfl⟩ := mixOne_eq_some.1 he
  have h2 := mixTerms_forall₂ ht
  refine mixOk_channels h h2.length_eq.symm fun x hx => ?_
  obtain ⟨n, hn, rfl⟩ := List.mem_iff_getElem.1 hx
  have hn' : n < m.chans.length := h2.length_eq ▸ hn
  obtain ⟨a, ha⟩ := h2.get hn' hn
  exact (chanTerm_settings ha).chanOk (h.2.1 _ (List.getElem_mem hn'))

theorem mixOk_enqueue {c : Config} {m : Mix} (v : Sample) (hc : c.Valid) (h : mixOk c m)
    (hf : m.qCount.toNat < c.qCap) : mixOk c (enqueue c v m) := by
  obtain ⟨h1, h2, h3, ⟨h4, h5⟩, h6, h7⟩ := h
  have hq := qCount_enqueue (v := v) hc.qCap_le hf
  refine ⟨h1, h2, h3, ⟨Memory.write_wf _ _ _ h4, fun e he => ?_⟩, by omega, fun k hk => ?_⟩
  · rcases Memory.mem_write _ _ _ he with rfl | he
    · exact Nat.mod_lt _ hc.qCap_pos
    · exact h5 e he
  · rw [enqueue_slot, enqueue_read hc.qCap_pow hc.qCap_le (by omega) hf]
    split
    · rfl
    · exact h7 k (by omega)

theorem mixOk_drain {c : Config} {m : Mix} (h : mixOk c m) : mixOk c (drain c m) := by
  obtain ⟨h1, h2, h3, h4, h6, h7⟩ := h
  obtain ⟨e1, e2, e3, _⟩ := drain_frame c m
  have hq := qCount_drain (c := c) (m := m)
  refine ⟨e1 ▸ h1, e1 ▸ h2, e2 ▸ h3, e3 ▸ h4, by omega, fun k hk => ?_⟩
  have hne : m.qCount ≠ 0 := fun e => by
    rw [hq, e] at hk
    simp at hk
  rw [e3, drain_slot hne]
  exact h7 (k + 1) (by omega)

/-! ### INP -/

theorem inpOk_failed {c : Config} {p : Inp} (h : inpOk c p) :
    inpOk c { p with press := 0, rel := 0 } := by
  obtain ⟨h1, h2, h3, _⟩ := h
  exact ⟨h1, h2, h3, by simp, by simp, Nat.two_pow_pos _⟩

theorem inpOk_sampled {c : Config} {p : Inp} (raw : BitVec 32) (hc : c.Valid) (h : inpOk c p) :
    inpOk c (p.sampled c raw) := by
  have hb := hc.nBtn_le
  have hlevel : ∀ b, c.nBtn ≤ b → p.level.getLsbD b = false := toNat_lt_iff_getLsbD.1 h.1
  refine ⟨toNat_lt_iff_getLsbD.2 fun b hn => ?_, sampled_dbCnt_length .., fun n hn => ?_, ?_, ?_,
    toNat_lt_iff_getLsbD.2 fun b hn => ?_⟩
  · rw [sampled_level _ _ _ _ hb, hlevel b hn]
    simp [show ¬ b < c.nBtn by omega]
  · obtain ⟨b, hbl, rfl⟩ := List.mem_iff_getElem.1 hn
    rw [sampled_dbCnt_length] at hbl
    have e := sampled_dbCnt p c raw hbl
    rw [List.getElem?_eq_some_iff] at e
    obtain ⟨_, e⟩ := e
    rw [e]
    exact nextCount_lt p c.dbWin raw b hc.dbWin_pos hc.dbWin_lt
  · apply BitVec.eq_of_getLsbD_eq
    intro b _
    rw [BitVec.getLsbD_and, sampled_press]
    cases (p.sampled c raw).level.getLsbD b <;> simp
  · apply BitVec.eq_of_getLsbD_eq
    intro b _
    rw [BitVec.getLsbD_and, sampled_rel]
    cases (p.sampled c raw).level.getLsbD b <;> simp
  · rw [sampled_rel, hlevel b hn, Bool.and_false]

/-- The sampling operation keeps the INP part. -/
theorem inpOk_sampleInputs {s : State} (hc : s.cfg.Valid) (h : inpOk s.cfg s.inp) :
    inpOk s.cfg (sampleInputs s).inp := by
  rcases sampleInputs_cases s with ⟨_, e⟩ | ⟨_, e⟩ <;> rw [e]
  · exact inpOk_sampled _ hc h
  · exact inpOk_failed h

/-! ### FTS -/

/-- The pairs of a phase and a callback request that occur (44_scheduler.md R233). -/
theorem ftsOk_iff (f : Fts) : ftsOk f ↔
    (f.cbreq = .none ∧ f.phase ≠ .updating ∧ f.phase ≠ .drawing) ∨
    (f.cbreq = .init ∧ f.phase = .idle) ∨ (f.cbreq = .update ∧ f.phase = .updating) ∨
    (f.cbreq = .draw ∧ f.phase = .drawing) := by
  unfold ftsOk
  cases f.phase <;> cases f.cbreq <;> simp

theorem ftsOk_callbackReturned {f : Fts} (v : Word) (h : ftsOk f) :
    ftsOk (callbackReturned v f) := by
  rw [ftsOk_iff] at *
  unfold callbackReturned
  cases hb : f.cbreq <;> simp_all

/-! ### The updates every command shares -/

theorem StateInv.respond {s : State} (h : StateInv s) (c : Cond) (v : BitVec 64) :
    StateInv (s.respond c v) :=
  ⟨h.cfg, h.fbc, h.dos, h.mix, h.inp, h.fts, h.time, h.job⟩

theorem StateInv.setCmd {s : State} (h : StateInv s) (ws : List Word) : StateInv (s.setCmd ws) :=
  ⟨h.cfg, h.fbc, h.dos, h.mix, h.inp, h.fts, h.time, h.job⟩

theorem StateInv.popEvent {s : State} (h : StateInv s) : StateInv (popEvent s) :=
  ⟨h.cfg, h.fbc, h.dos, h.mix, h.inp, h.fts, h.time, h.job⟩

theorem StateInv.setSticky {s : State} (h : StateInv s) (b : BitVec 3) :
    StateInv (s.setSticky b) :=
  ⟨h.cfg, h.fbc, h.dos, h.mix, h.inp, h.fts, h.time, h.job⟩

/-- The end of a command under way. -/
theorem StateInv.setJob_none {s : State} (h : StateInv s) : StateInv (s.setJob none) :=
  ⟨h.cfg, h.fbc, h.dos, h.mix, h.inp, h.fts, h.time, trivial⟩

theorem StateInv.doSwap {s : State} (h : StateInv s) (hf : s.dos.fault = false) :
    StateInv (doSwap s) :=
  ⟨h.cfg, h.fbc, dosOk_doSwap h.cfg hf, h.mix, h.inp, h.fts, h.time, h.job⟩

theorem jobOk_none {s : State} (h : s.port.job = none) : jobOk s := by
  unfold jobOk
  rw [h]
  trivial

theorem qFull_eq_false {s : State} : s.qFull = false ↔ s.mix.qCount.toNat < s.cfg.qCap := by
  simp [State.qFull]

/-- What a sample-step whose sample goes into the queue does to the mixer (42_audio.md R191, R192). -/
theorem made_mixer {s : State} {v : Sample} {m : Mix} (hc : s.cfg.Valid) (hm : mixOk s.cfg s.mix)
    (hq : s.qFull = false) (e : mixOne s.cfg s.mix = some (v, m)) :
    mixOk s.cfg (s.made v m).mix ∧ (s.made v m).mix.qRd = s.mix.qRd ∧
      (s.made v m).mix.qCount.toNat = s.mix.qCount.toNat + 1 := by
  obtain ⟨_, _, h1, h2, _⟩ := mixOne_frame e
  have hcount : m.qCount = s.mix.qCount := by simp only [Mix.qCount, h1, h2]
  have hroom : m.qCount.toNat < s.cfg.qCap := by
    rw [hcount]
    exact qFull_eq_false.1 hq
  refine ⟨mixOk_enqueue v hc (mixOk_mixOne hm e) hroom, h2, ?_⟩
  rw [State.made, State.push_mix, ← hcount]
  exact qCount_enqueue hc.qCap_le hroom

end Machine

end Sys2Proof
end

