-- ==== Sys2Proof/Laws/PerInstr.lean ====
section
/-! SUPPORT. Statements about each instruction as syntax, one lemma for each constructor of `Instr`. -/

namespace Sys2Proof.Laws

/-- The words of the instruction start with a header that its row of the opcode table selects: masked, it
is the row's match value (30_encoding.md R121). -/
def HeaderMatchesRow.Statement (i : Instr) : Prop :=
  ∃ h after, encode i = h :: after ∧ opcField h = i.opcode.number ∧
    h &&& i.opcode.format.mask = i.opcode.matchWord

/-- The header `encode` builds matches its row when the reserved fields it writes are 0. -/
theorem headerMatchesRow_of_fields (i : Instr)
    (h : match i.opcode.format with
      | .z | .p | .l | .r | .b | .v => i.aBits = 0 ∧ i.immBits = 0
      | .i | .t => i.aBits = 0
      | .c => True
      | .cZero | .cw1 | .cw2 => i.immBits = 0) : HeaderMatchesRow.Statement i := by
  refine ⟨_, _, rfl, opcField_header .., (matched_header _ _).2 ⟨opcField_header .., ?_⟩⟩
  rw [aField_header, lowHalf_header]
  exact h

theorem HeaderMatchesRow.back : HeaderMatchesRow.Statement .back :=
  headerMatchesRow_of_fields _ ⟨rfl, rfl⟩

theorem HeaderMatchesRow.swap : HeaderMatchesRow.Statement .swap :=
  headerMatchesRow_of_fields _ ⟨rfl, rfl⟩

theorem HeaderMatchesRow.pset (x y : Half) (colour : Word) :
    HeaderMatchesRow.Statement (.pset x y colour) :=
  headerMatchesRow_of_fields _ ⟨rfl, rfl⟩

theorem HeaderMatchesRow.line (x0 y0 x1 y1 : Half) (colour : Word) :
    HeaderMatchesRow.Statement (.line x0 y0 x1 y1 colour) :=
  headerMatchesRow_of_fields _ ⟨rfl, rfl⟩

theorem HeaderMatchesRow.rect (x y w h : Half) (colour : Word) :
    HeaderMatchesRow.Statement (.rect x y w h colour) :=
  headerMatchesRow_of_fields _ ⟨rfl, rfl⟩

theorem HeaderMatchesRow.blit (x y w h : Half) (data : List Word) :
    HeaderMatchesRow.Statement (.blit x y w h data) :=
  headerMatchesRow_of_fields _ ⟨rfl, rfl⟩

theorem HeaderMatchesRow.text (x y : Half) (colour : Word) (chars : List CharCode) :
    HeaderMatchesRow.Statement (.text x y colour chars) :=
  headerMatchesRow_of_fields _ rfl

theorem HeaderMatchesRow.dcomp : HeaderMatchesRow.Statement .dcomp :=
  headerMatchesRow_of_fields _ ⟨rfl, rfl⟩

theorem HeaderMatchesRow.dwait : HeaderMatchesRow.Statement .dwait :=
  headerMatchesRow_of_fields _ ⟨rfl, rfl⟩

theorem HeaderMatchesRow.dtry : HeaderMatchesRow.Statement .dtry :=
  headerMatchesRow_of_fields _ ⟨rfl, rfl⟩

theorem HeaderMatchesRow.dclr : HeaderMatchesRow.Statement .dclr :=
  headerMatchesRow_of_fields _ ⟨rfl, rfl⟩

theorem HeaderMatchesRow.dreset : HeaderMatchesRow.Statement .dreset :=
  headerMatchesRow_of_fields _ ⟨rfl, rfl⟩

theorem HeaderMatchesRow.chwave (ch : BitVec 8) (kind : Half) :
    HeaderMatchesRow.Statement (.chwave ch kind) :=
  headerMatchesRow_of_fields _ trivial

theorem HeaderMatchesRow.chvol (ch : BitVec 8) (vol : Half) :
    HeaderMatchesRow.Statement (.chvol ch vol) :=
  headerMatchesRow_of_fields _ trivial

theorem HeaderMatchesRow.chfreq (ch : BitVec 8) (step : Word) :
    HeaderMatchesRow.Statement (.chfreq ch step) :=
  headerMatchesRow_of_fields _ rfl

theorem HeaderMatchesRow.chpos (ch : BitVec 8) (pos : Word) :
    HeaderMatchesRow.Statement (.chpos ch pos) :=
  headerMatchesRow_of_fields _ rfl

theorem HeaderMatchesRow.chstart (ch : BitVec 8) : HeaderMatchesRow.Statement (.chstart ch) :=
  headerMatchesRow_of_fields _ rfl

theorem HeaderMatchesRow.chstop (ch : BitVec 8) : HeaderMatchesRow.Statement (.chstop ch) :=
  headerMatchesRow_of_fields _ rfl

theorem HeaderMatchesRow.chloop (ch : BitVec 8) (flag : Half) :
    HeaderMatchesRow.Statement (.chloop ch flag) :=
  headerMatchesRow_of_fields _ trivial

theorem HeaderMatchesRow.chtable (ch : BitVec 8) (base len : Word) :
    HeaderMatchesRow.Statement (.chtable ch base len) :=
  headerMatchesRow_of_fields _ rfl

theorem HeaderMatchesRow.mixt : HeaderMatchesRow.Statement .mixt :=
  headerMatchesRow_of_fields _ ⟨rfl, rfl⟩

theorem HeaderMatchesRow.mixd (n : Half) : HeaderMatchesRow.Statement (.mixd n) :=
  headerMatchesRow_of_fields _ rfl

theorem HeaderMatchesRow.mixw (n : Half) : HeaderMatchesRow.Statement (.mixw n) :=
  headerMatchesRow_of_fields _ rfl

theorem HeaderMatchesRow.insample : HeaderMatchesRow.Statement .insample :=
  headerMatchesRow_of_fields _ ⟨rfl, rfl⟩

theorem HeaderMatchesRow.run : HeaderMatchesRow.Statement .run :=
  headerMatchesRow_of_fields _ ⟨rfl, rfl⟩

theorem HeaderMatchesRow.cbret (v : Word) : HeaderMatchesRow.Statement (.cbret v) :=
  headerMatchesRow_of_fields _ ⟨rfl, rfl⟩

theorem HeaderMatchesRow.panic : HeaderMatchesRow.Statement .panic :=
  headerMatchesRow_of_fields _ ⟨rfl, rfl⟩

theorem HeaderMatchesRow.rdreg (n : Half) : HeaderMatchesRow.Statement (.rdreg n) :=
  headerMatchesRow_of_fields _ rfl

end Sys2Proof.Laws
end

