-- ==== Sys2Proof/Tests/Slice0.lean ====
section
/-! SUPPORT. Tests from 95_test_vectors.md (each names its vector) and, for every obligation with
hypotheses, a concrete state and operands that meet them (`witness_…`). -/

namespace Sys2Proof.Tests

open Sys2Proof.Machine

/-! ### Helpers -/

/-- What `f` sees of a next state. -/
def got {α : Type} (r : Result) (f : State → α) : Option α :=
  match r with
  | .next s => some (f s)
  | .fault _ => none
  | .refused _ => none

/-- The step answers the next state `t`. -/
abbrev goesTo (r : Result) (t : State) : Prop := got r (fun s => s) = some t

/-- Why a step is refused. -/
def refusal (r : Result) : Option Refusal :=
  match r with
  | .next _ => none
  | .fault _ => none
  | .refused why => some why

/-- Reset, with command words on the port and an order of moves. -/
def placed (words : List Word) (order : List Event := []) : State :=
  { State.reset with port := { cmd := words, job := none }, agenda := order }

/-- Reset, after a successful SWAP (vector W1). -/
def armed : State := doSwap State.reset

/-- The same after a VSYNC. -/
def active : State := { armed with dos := { armed.dos with dstate := .active } }

/-- The same after a timeout (vector D10). -/
def faulted : State :=
  { armed with
    dos := { armed.dos with dstate := .idle, fault := true, tmoCnt := 100 }
    sys := { time := 100, sticky := 1, halted := false } }

/-- A transfer under way in a block whose SWAP blocks (vector W7). -/
def blocking : State := { armed with cfg := { State.reset.cfg with swapBlock := true } }

/-- Reset, with a full queue. -/
def full : State :=
  { State.reset with mix := { State.reset.mix with
      q := [(0, 10), (1, 20), (2, 30), (3, 40)], qWr := 4 } }

/-- Reset, with another phase and callback request. -/
def inPhase (p : Phase) (r : CbReq) : State :=
  { State.reset with fts := { State.reset.fts with phase := p, cbreq := r } }

/-- WaitingForVsync with `n` samples to top up. -/
def waiting (n : BitVec 32) : State :=
  { State.reset with fts := { State.reset.fts with phase := .waitingForVsync, topupN := n } }

/-- The pacing hold of vector T14. -/
def paced : State :=
  { waiting 0 with
    cfg := { Config.testBench with paceEn := true, framePeriod := 10 }
    sys := { time := 9, sticky := 0, halted := false } }

/-- Reset, with a command under way. -/
def holding (j : Job) (s : State) : State := s.setJob (some j)

/-- Reset, halted. -/
def halted : State := { State.reset with sys := { time := 0, sticky := 0, halted := true } }

/-- A channel that plays. -/
def playing (k : Kind) (vol : BitVec 9) (step : BitVec 32) : Channel :=
  { Channel.reset with kind := k, active := true, vol := vol, step := step }

/-- A channel that plays entries of SMP. -/
def table (base len : BitVec 32) (vol : BitVec 9) : Channel :=
  { Channel.reset with kind := .sample, active := true, vol := vol, tbase := base, tlen := len }

/-- Reset, with those channels first and the rest as after reset. -/
def channels (cs : List Channel) : State :=
  { State.reset with mix := { State.reset.mix with
      chans := cs ++ List.replicate (4 - cs.length) Channel.reset } }

/-- The mixed sample of those channels. -/
def mixed (cs : List Channel) : Option Int :=
  (mixOne Config.testBench (channels cs).mix).map fun r => r.1.toInt

/-- The state of button 0 and the debounce window of a block. -/
def buttons (win : Nat) (raw : BitVec 32) (p : Inp) : State :=
  { State.reset with
    cfg := { Config.testBench with dbWin := win }
    inp := p
    env := { State.reset.env with btnRaw := raw } }

/-! ### Well-formedness: each check refuses a term that breaks it -/

theorem test_blit_of_three_words_for_two_by_two_is_ill_formed :
    (Instr.blit 0 0 2 2 [1, 2, 3]).wellFormed = false := by decide

theorem text_of_65536_codes (chars : List CharCode) (h : chars.length = 65536) :
    (Instr.text 0 0 5 chars).wellFormed = false := by
  simp [Instr.wellFormed, h]

theorem test_text_of_65536_codes_is_ill_formed :
    (Instr.text 0 0 5 (List.replicate 65536 0x41)).wellFormed = false :=
  text_of_65536_codes _ List.length_replicate

theorem test_blit_and_text_well_formed :
    (Instr.blit 3 0 2 2 [1, 2, 3, 4]).wellFormed = true ∧
    (Instr.text 0 0 5 [0x41, 0x42]).wellFormed = true := by decide

/-! ### Decoding: a word written out for every constructor (95_test_vectors.md E1 to E25) -/

theorem test_decode_back : decode [0x01000000] = .command .back [] := by decide

theorem test_decode_swap : decode [0x02000000, 7] = .command .swap [7] := by decide

theorem test_decode_pset :
    decode [0x03000000, 0x00020001, 0x0000F800] = .command (.pset 1 2 0xF800) [] := by decide

theorem test_decode_line :
    decode [0x04000000, 0xFFFFFFFF, 0x00030004, 0x00000007] =
      .command (.line 0xFFFF 0xFFFF 4 3 7) [] := by decide

theorem test_decode_rect :
    decode [0x05000000, 0x0001FFFF, 0x00050003, 0x00000009] =
      .command (.rect 0xFFFF 1 3 5 9) [] := by decide

theorem test_decode_blit :
    decode [0x06000000, 0x00000003, 0x00020002, 1, 2, 3, 4] =
      .command (.blit 3 0 2 2 [1, 2, 3, 4]) [] ∧
    decode [0x06000000, 0x00000000, 0x00050000] = .command (.blit 0 0 0 5 []) [] := by decide

theorem test_decode_text :
    decode [0x07000005, 0x00010002, 6, 0x4C4C4548, 0x0000004F] =
      .command (.text 2 1 6 [0x48, 0x45, 0x4C, 0x4C, 0x4F]) [] ∧
    decode [0x07000000, 0, 5, 9] = .command (.text 0 0 5 []) [9] := by decide

theorem test_decode_dcomp : decode [0x10000000] = .command .dcomp [] := by decide

theorem test_decode_dwait : decode [0x11000000] = .command .dwait [] := by decide

theorem test_decode_dtry : decode [0x12000000] = .command .dtry [] := by decide

theorem test_decode_dclr : decode [0x13000000] = .command .dclr [] := by decide

theorem test_decode_dreset : decode [0x14000000] = .command .dreset [] := by decide

theorem test_decode_chwave : decode [0x20010004] = .command (.chwave 1 4) [] := by decide

theorem test_decode_chvol :
    decode [0x21000080] = .command (.chvol 0 128) [] ∧
    decode [0x21010100] = .command (.chvol 1 256) [] := by decide

theorem test_decode_chfreq :
    decode [0x22000000, 0x40000000] = .command (.chfreq 0 0x40000000) [] := by decide

theorem test_decode_chpos : decode [0x23010000, 0x64] = .command (.chpos 1 100) [] := by decide

theorem test_decode_chstart : decode [0x24020000] = .command (.chstart 2) [] := by decide

theorem test_decode_chstop : decode [0x25010000] = .command (.chstop 1) [] := by decide

theorem test_decode_chloop : decode [0x26010001] = .command (.chloop 1 1) [] := by decide

theorem test_decode_chtable :
    decode [0x27010000, 0, 3] = .command (.chtable 1 0 3) [] := by decide

theorem test_decode_mixt : decode [0x28000000] = .command .mixt [] := by decide

theorem test_decode_mixd : decode [0x29000006] = .command (.mixd 6) [] := by decide

theorem test_decode_mixw : decode [0x2A000002] = .command (.mixw 2) [] := by decide

theorem test_decode_insample : decode [0x30000000] = .command .insample [] := by decide

theorem test_decode_run : decode [0x40000000] = .command .run [] := by decide

theorem test_decode_cbret : decode [0x41000000, 7] = .command (.cbret 7) [] := by decide

theorem test_decode_panic : decode [0x42000000] = .command .panic [] := by decide

theorem test_decode_rdreg : decode [0x50000105] = .command (.rdreg 0x0105) [] := by decide

/-- Vectors X7, X8 and L1. -/
theorem test_decode_reserved_opcodes :
    [0x00000000, 0x08000000, 0x15000000, 0x2B000000, 0x31000000, 0x43000000, 0x51000000,
        0xFF000000].all (fun h => match decode [h, 5] with
      | .illegal (.reservedOpcode _) [5] => true
      | _ => false) = true := by decide

/-- Vectors X9 to X12, L2, L3: a reserved field is judged after the operand words. -/
theorem test_decode_reserved_fields :
    [[0x01000001, 5], [0x03010000, 1, 2, 5], [0x24000001, 5], [0x50010000, 5], [0x02010000, 5],
        [0x22000001, 1, 5]].all (fun ws => match decode ws with
      | .illegal (.reservedField _) [5] => true
      | _ => false) = true := by decide

theorem test_decode_waits_for_operand_words :
    decode [] = .incomplete ∧ decode [0x03000000, 1] = .incomplete ∧
    decode [0x06000000, 0x00000003] = .incomplete := by decide

theorem test_decode_table_word :
    decodeTableWord 32 0x07000005 = some (.text 0 0 0 [0, 0, 0, 0, 0]) ∧
    decodeTableWord 64 0x0000000741000000 = some (.cbret 7) ∧
    decodeTableWord 32 0x02010000 = none := by decide

theorem test_fetch_word_runs_first :
    got (step (State.reset.withFetchWord 32 0x29000006)) (fun s => s.port.job) =
      some (some (.mixd 6 0)) := by decide

/-! ### FBC -/

/-- Vector F1. -/
theorem test_back :
    got (exec .back State.reset) (fun s => s.out.rsp) = some [⟨.ok, 1⟩] ∧
    got (exec .back armed) (fun s => s.out.rsp) = some [⟨.ok, 0⟩] := by decide

/-- Vector W1. -/
theorem test_swap :
    got (exec .swap State.reset) (fun s => (s.dos.dstate, s.dos.dbytes, s.status, s.out.rsp)) =
      some (.armed, 24, 0x63, [⟨.ok, 0⟩]) := by decide

/-- Vectors W2 and W5. -/
theorem test_swap_turned_away :
    goesTo (exec .swap armed) (armed.respond .notReady 0) ∧
    goesTo (exec .swap faulted) (faulted.respond .hardwareFault 0) ∧
    faulted.status = 0x70 := by decide

/-- Vectors F2, F7, F8. -/
theorem test_pset :
    got (exec (.pset 1 2 0xF800) State.reset) (fun s => s.fbc.fb1) = some [(9, 0xF800)] ∧
    got (exec (.pset 0x8000 0x7FFF 1) State.reset) (fun s => s.fbc) = some State.reset.fbc ∧
    got (exec (.pset 3 2 0x12345) State.reset) (fun s => s.fbc.fb1) = some [(11, 0x2345)] := by
  decide

/-- Vectors F17 and F14. -/
theorem test_line :
    got (exec (.line 0xFFFF 0xFFFF 4 3 7) State.reset) (fun s => s.fbc.fb1) =
      some [(0, 7), (5, 7), (6, 7), (11, 7)] ∧
    got (exec (.line 0xFFFE 1 1 1 7) State.reset) (fun s => s.fbc.fb1) =
      some [(4, 7), (5, 7)] := by decide

/-- Vector F18. -/
theorem test_line_reversed :
    lineDefault 3 2 0 0 = [(3, 2), (2, 1), (1, 1), (0, 0)] := by decide

/-- Vectors F19 and F23. -/
theorem test_rect :
    got (exec (.rect 0xFFFF 1 3 5 9) State.reset) (fun s => s.fbc.fb1) =
      some [(4, 9), (5, 9), (8, 9), (9, 9)] ∧
    got (exec (.rect 0x7FFF 0 2 1 3) State.reset) (fun s => s.fbc.fb1) = some [] := by decide

/-- Vectors F24 and F25. -/
theorem test_blit :
    got (exec (.blit 3 0 2 2 [1, 2, 3, 4]) State.reset) (fun s => s.fbc.fb1) =
      some [(3, 1), (7, 3)] ∧
    got (exec (.blit 1 1 2 1 [0xAAAA, 0xBBBB]) State.reset) (fun s => s.fbc.fb1) =
      some [(5, 0xAAAA), (6, 0xBBBB)] := by decide

/-- Vector F28. -/
theorem test_text :
    got (exec (.text 2 1 6 [0x48, 0x45, 0x4C, 0x4C, 0x4F]) State.reset) (fun s => s.fbc.fb1) =
      some [(6, 6), (7, 6)] := by decide

/-! ### DOS -/

/-- Vectors D1, D2, D10. -/
theorem test_dcomp :
    [State.reset, armed, faulted].map (fun s => got (exec .dcomp s) fun t => t.out.rsp) =
      [some [⟨.ok, 1⟩], some [⟨.ok, 0⟩], some [⟨.ok, 0⟩]] := by decide

/-- Vectors D1, D2, D10. -/
theorem test_dtry :
    [State.reset, armed, faulted].map (fun s => got (exec .dtry s) fun t => t.out.rsp) =
      [some [⟨.ok, 0⟩], some [⟨.notReady, 0⟩], some [⟨.hardwareFault, 0⟩]] := by decide

/-- Vectors D1, D10, D11. -/
theorem test_dwait :
    [State.reset, armed, faulted].map
        (fun s => got (exec .dwait s) fun t => (t.port.job, t.out.rsp)) =
      [some (none, [⟨.ok, 0⟩]), some (some .dwait, []), some (none, [⟨.hardwareFault, 0⟩])] := by
  decide

/-- Vector D12. -/
theorem test_dclr :
    got (exec .dclr faulted) (fun s => (s.dos.fault, s.dos.tmoCnt, s.sys.sticky)) =
      some (false, 100, 1) := by decide

/-- Vector D13. -/
theorem test_dreset :
    got (exec .dreset faulted) (fun s => (s.status, s.dos.dbytes, s.dos.tmoCnt, s.sys.sticky)) =
      some (0x60, 0, 0, 1) := by decide

/-- Vectors D3, D6, D7. -/
theorem test_vsync :
    got (turn .vsync armed) (fun s => (s.status, s.out.panel)) = some (0x65, [.sof]) ∧
    goesTo (turn .vsync State.reset) State.reset ∧ goesTo (turn .dword armed) armed := by decide

/-- Vector D5, the last word of a transfer. -/
theorem test_last_word :
    got (turn .dword
      { active with
        fbc := { active.fbc with fb1 := [(11, 0x1F)] }
        dos := { active.dos with didx := 11 } })
      (fun s => (s.status, s.dRemain, s.out.panel)) = some (0x68, 0, [.word 0x1F]) := by decide

/-- Vectors D9 and D10. -/
theorem test_timeout :
    got (turn .tb { active with dos := { active.dos with tmoCnt := 98 } })
      (fun s => (s.dos.tmoCnt, s.dos.dstate, s.dos.fault)) = some (99, .active, false) ∧
    got (turn .tb { active with dos := { active.dos with tmoCnt := 99 } })
      (fun s => (s.dos.tmoCnt, s.dos.dstate, s.dos.fault, s.sys.sticky)) =
        some (100, .idle, true, 1) := by decide

/-! ### MIX -/

/-- Vectors M1 and M2. -/
theorem test_chstart :
    got (exec (.chstart 0) State.reset) (fun s => s.reg 0x0100) = some (some 0x08) ∧
    got (exec (.chstart 0) (channels [{ Channel.reset with pos0 := 9, cur := 4, lfsr := 7 }]))
      (fun s => s.mix.chans.head?.map fun c => (c.cur, c.lfsr)) = some (some (9, 1)) := by decide

/-- Vector M16. -/
theorem test_chstop :
    got (exec (.chstop 0) (channels [{ playing (.tone .square) 256 5 with cur := 4 }]))
      (fun s => s.mix.chans.head?.map fun c => (c.active, c.cur)) = some (some (false, 4)) := by
  decide

/-- Vector M2. -/
theorem test_chwave_and_chloop :
    got (exec (.chwave 1 4) State.reset) (fun s => s.reg 0x0110) = some (some 0x04) ∧
    got (exec (.chloop 1 1) State.reset) (fun s => s.reg 0x0110) = some (some 0x10) := by decide

theorem test_chvol_chfreq_chpos :
    got (exec (.chvol 0 256) State.reset) (fun s => s.reg 0x0101) = some (some 256) ∧
    got (exec (.chfreq 3 0x80000000) State.reset) (fun s => s.reg 0x0132) =
      some (some 0x80000000) ∧
    got (exec (.chpos 1 100) State.reset) (fun s => (s.reg 0x0113, s.reg 0x0114)) =
      some (some 100, some 0) := by decide

/-- The legal edge values of section 2.8. -/
theorem test_chtable :
    got (exec (.chtable 1 10 2) State.reset) (fun s => (s.reg 0x0116, s.reg 0x0117)) =
      some (some 10, some 2) ∧
    got (exec (.chtable 1 12 0) State.reset) (fun s => s.out.rsp) = some [⟨.ok, 0⟩] := by decide

/-- The table of section 2.4 at 0x7FFF0000, 0xC0000000 and 0xFFFFFFFF; NOISE at 1 and 0xB400. -/
theorem test_waveforms :
    [Tone.square, .saw, .triangle].map (fun t => (waveDefault t 0x7FFF0000 1).toInt) =
      [32767, -1, 32766] ∧
    [Tone.square, .saw, .triangle].map (fun t => (waveDefault t 0xC0000000 1).toInt) =
      [-32767, 16384, -1] ∧
    [Tone.square, .saw, .triangle].map (fun t => (waveDefault t 0xFFFFFFFF 1).toInt) =
      [-32767, 32767, -32767] ∧
    (waveDefault .noise 0 1).toInt = 32767 ∧ (waveDefault .noise 0 0xB400).toInt = -32767 := by
  decide

/-- Vector M8, the steps with a feedback bit. -/
theorem test_noise_generator :
    [0x0001, 0xB400, 0x002D, 0xB416, 0x5A0B, 0x9905, 0xF882].map lfsrDefault =
      [0xB400, 0x5A00, 0xB416, 0x5A0B, 0x9905, 0xF882, 0x7C41] := by decide

/-- Vector M7: the generator advances when the phase wraps. -/
theorem test_noise_advances_at_the_wrap :
    (toneSample Config.testBench .noise (playing (.tone .noise) 256 0x80000000)).2.lfsr = 1 ∧
    (toneSample Config.testBench .noise
      { playing (.tone .noise) 256 0x80000000 with cur := 0x80000000 }).2.lfsr = 0xB400 := by
  decide

/-- Vectors A1, A3, A5, A6, A8, A13, M14 and the first row of S7. -/
theorem test_mix_arithmetic :
    mixed [table 11 1 128, table 11 1 128] = some 32767 ∧
    mixed [table 11 1 256, table 11 1 256] = some 32767 ∧
    mixed (List.replicate 4 (table 10 1 256)) = some (-32768) ∧
    mixed [table 7 1 128, table 8 1 128] = some 2 ∧
    mixed [table 3 1 128] = some (-3) ∧
    mixed [table 7 1 128, table 9 1 128] = some 0 ∧
    mixed [table 4 1 256, table 5 1 256, table 6 1 256] = some 25000 ∧
    mixed [playing (.tone .square) 128 0x40000000, playing (.tone .saw) 128 0x20000000] =
      some (-1) := by decide

/-- Vectors M9, M10, M12, M13. -/
theorem test_table_channel :
    (playChannel Config.testBench State.reset.mix 4 (table 0 3 256)).map
      (fun r => (r.1.map BitVec.toInt, r.2.cur, r.2.active)) = some ([10, 20, 30, 0], 3, false) ∧
    (playChannel Config.testBench State.reset.mix 5 { table 0 3 256 with loop := true }).map
      (fun r => (r.1.map BitVec.toInt, r.2.cur, r.2.active)) =
        some ([10, 20, 30, 10, 20], 2, true) ∧
    (playChannel Config.testBench State.reset.mix 1 { table 0 3 256 with cur := 100 }).map
      (fun r => (r.1.map BitVec.toInt, r.2.cur, r.2.active)) = some ([0], 100, false) := by decide

/-- Vectors Q1 and Q2. -/
theorem test_mixt :
    got (exec .mixt State.reset) (fun s => s.port.job) = some (some (.mixt 4 4)) ∧
    goesTo (exec .mixt full) (full.respond .ok 0) := by decide

/-- The last sample-step of Q1. -/
theorem test_mixt_ends :
    got (turn .host (holding (.mixt 4 1)
        { full with mix := { full.mix with q := [(0, 10), (1, 20), (2, 30)], qWr := 3 } }))
      (fun s => (s.mix.q, s.mix.qWr, s.port.job, s.out.rsp)) =
        some ([(0, 10), (1, 20), (2, 30), (3, 0)], 4, none, [⟨.ok, 4⟩]) := by decide

/-- Vectors Q3 (its last sample-step) and Q4. -/
theorem test_mixd :
    got (turn .host (holding (.mixd 1 1) full))
      (fun s => (s.mix.qWr, s.sys.sticky, s.port.job, s.out.rsp)) =
        some (4, 2, none, [⟨.bufferOverrun, 2⟩]) ∧
    goesTo (exec (.mixd 0) State.reset) (State.reset.respond .ok 0) := by decide

/-- Vector Q7: MIXW holds on the full queue. -/
theorem test_mixw :
    got (exec (.mixw 2) full) (fun s => s.port.job) = some (some (.mixw 2 2)) ∧
    goesTo (turn .host (holding (.mixw 2 2) full)) (holding (.mixw 2 2) full) := by decide

/-- Vector Q12: the element index is continuous across the wrap of Q_WR. -/
theorem test_queue_wraps :
    let m := enqueue Config.testBench 8
      (enqueue Config.testBench 7
        { State.reset.mix with qWr := 0xFFFFFFFF, qRd := 0xFFFFFFFF })
    m.q = [(0, 8), (3, 7)] ∧ m.qWr = 1 ∧ m.qCount = 2 := by decide

/-- Vectors Q8 and Q9. -/
theorem test_drain :
    got (turn .sclk full) (fun s => (s.out.pcm, s.mix.qRd, s.mix.pcmOut)) =
      some ([10], 1, 10) ∧
    got (turn .sclk State.reset) (fun s => (s.out.pcm, s.mix.qRd, s.sys.sticky)) =
      some ([0], 0, 0) := by decide

/-! ### INP -/

/-- Vectors I1 and I5. -/
theorem test_insample :
    got (exec .insample (buttons 1 1 State.reset.inp)) (fun s => (s.inp.press, s.out.rsp)) =
      some (1, [⟨.ok, 1⟩]) ∧
    got (exec .insample { buttons 1 0 { level := 1, press := 1, rel := 0, dbCnt := [0, 0] } with
        env := { panelAck := true, btnRaw := 0, btnValid := false } })
      (fun s => (s.inp, s.sys.sticky, s.out.rsp)) =
        some ({ level := 1, press := 0, rel := 0, dbCnt := [0, 0] }, 4,
          [⟨.inputReadFailure, 1⟩]) := by decide

/-- P3, line 4. -/
theorem test_debounce :
    got (exec .insample (buttons 2 2 { level := 1, press := 0, rel := 0, dbCnt := [0, 1] }))
      (fun s => s.inp) =
        some { level := 3, press := 2, rel := 0, dbCnt := [1, 0] } := by decide

/-! ### FTS -/

/-- Vectors T1 and T2. -/
theorem test_run :
    got (exec .run State.reset) (fun s => s.status) = some 0x0800 ∧
    goesTo (exec .run (inPhase .idle .init)) ((inPhase .idle .init).respond .illegal 0) := by decide

/-- Vectors T4, T8, T9. -/
theorem test_cbret :
    got (exec (.cbret 0) (inPhase .idle .init)) (fun s => s.status) = some 0x0100 ∧
    got (exec (.cbret 0xDEADBEEF) (inPhase .updating .update))
      (fun s => (s.status, s.fts.gctl)) = some (0x1B00, 0xDEADBEEF) ∧
    got (exec (.cbret 5) (inPhase .drawing .draw)) (fun s => (s.status, s.fts.gctl)) =
      some (0x0400, 0) := by decide

/-- Vector T17. -/
theorem test_panic :
    got (exec .panic State.reset) (fun s => (s.sys.halted, s.out.rsp)) =
      some (true, [⟨.ok, 0⟩]) ∧
    goesTo (exec .back halted) halted ∧ goesTo (turn .sclk halted) halted ∧
    got (turn .tb { armed with sys := halted.sys }) (fun s => (s.sys.time, s.dos.tmoCnt)) =
      some (1, 0) := by decide

/-- Vector Q13 and the RDREG vectors of section 2.7. -/
theorem test_rdreg :
    got (exec (.rdreg 0x33) { full with mix := { full.mix with pcmOut := 0x8001 } })
      (fun s => s.out.rsp) = some [⟨.ok, 0xFFFFFFFFFFFF8001⟩] ∧
    [0x0000, 0x0105, 0x0135, 0x0022].map State.reset.reg =
      [some 0, some 1, some 1, some 0] := by decide

/-- RDREG vectors: not register numbers. -/
theorem test_rdreg_illegal :
    [0x0008, 0x0042, 0x0108, 0x0140, 0xFFFF].all
      (fun n => decide (goesTo (exec (.rdreg n) State.reset) (State.reset.respond .illegal 0))) =
        true := by decide

/-- Vectors T7, T10. -/
theorem test_sample_and_present_steps :
    got (turn .sched (inPhase .sampling .none)) (fun s => s.status) = some 0x1200 ∧
    got (turn .sched (inPhase .presenting .none)) (fun s => (s.status, s.fts.topupN)) =
      some (0x0563, 4) := by decide

/-- Vectors T12, T13. -/
theorem test_waiting_steps :
    got (turn .sched { full with fts := (waiting 4).fts })
      (fun s => (s.fts.topupN, s.mix.qWr)) = some (0, 4) ∧
    got (turn .sched (waiting 4)) (fun s => (s.fts.topupN, s.mix.qWr)) = some (3, 1) ∧
    got (turn .sched (waiting 0)) (fun s => (s.fts.tick, s.fts.phase)) =
      some (1, .sampling) := by decide

/-! ### Witnesses: what the hypotheses of the obligations ask for is met -/

/-- A form of `inpOk` that can be decided. -/
theorem inpOk_of_checks (c : Config) (p : Inp) (hl : p.level.toNat < 2 ^ c.nBtn)
    (hn : p.dbCnt.length = c.nBtn)
    (hc : (p.dbCnt.all fun n => decide (n.toNat < c.dbWin)) = true)
    (hp : p.press &&& p.level = p.press) (hr : p.rel &&& p.level = 0)
    (hw : p.rel.toNat < 2 ^ c.nBtn) : inpOk c p :=
  ⟨hl, hn, by simpa using hc, hp, hr, hw⟩

/-- A form of the invariant that can be decided, for a state in Idle with no command under way. -/
theorem inv_of_checks (s : State) (hj : s.port.job = none) (hp : s.fts.phase = .idle)
    (hr : s.fts.cbreq = .none) (hc : s.cfg.Valid)
    (hf : (s.fbc.fb0.wf ∧
        ∀ e ∈ s.fbc.fb0, e.1 < s.cfg.nPix ∧ e.2.toNat < 2 ^ s.cfg.pixelBits) ∧
      s.fbc.fb1.wf ∧ ∀ e ∈ s.fbc.fb1, e.1 < s.cfg.nPix ∧ e.2.toNat < 2 ^ s.cfg.pixelBits)
    (hd : s.dos.didx.toNat * s.cfg.pixelBytes ≤ s.dos.dbytes.toNat ∧
      (s.dos.fault = true → s.dos.dstate = .idle) ∧
      (s.dos.dstate ≠ .idle →
        s.dos.dsel = s.fbc.front ∧ s.dos.dbytes.toNat = s.cfg.frameBytes ∧
        s.dos.didx.toNat < s.cfg.nPix ∧ s.dos.tmoCnt.toNat < s.cfg.xferTimeout ∧
        s.dos.xdone = false) ∧
      (s.dos.dstate = .armed → s.dos.didx = 0))
    (hm : s.mix.chans.length = s.cfg.nCh ∧
      (∀ ch ∈ s.mix.chans,
        ch.vol.toNat ≤ 256 ∧ ch.tbase.toNat + ch.tlen.toNat ≤ s.cfg.smpSize) ∧
      s.mix.smp = s.cfg.smpInit ∧ (s.mix.q.wf ∧ ∀ e ∈ s.mix.q, e.1 < s.cfg.qCap) ∧
      s.mix.qCount.toNat ≤ s.cfg.qCap ∧
      ∀ k < s.mix.qCount.toNat, (s.mix.q.read (s.mix.slot s.cfg k)).isSome = true)
    (hi : inpOk s.cfg s.inp) (ht : s.fts.tStart.toNat ≤ s.sys.time.toNat) : StateInv s :=
  ⟨hc, hf, hd, hm, hi, by rw [ftsOk, hp]; exact .inl hr, ht, jobOk_none hj⟩

/-- The invariant holds in the states the witnesses below name. -/
theorem witness_inv_reset : StateInv State.reset :=
  inv_of_checks _ rfl rfl rfl (by decide) (by decide) (by decide) (by decide)
    (inpOk_of_checks _ _ (by decide) (by decide) (by decide) (by decide) (by decide) (by decide))
    (by decide)

theorem witness_inv_armed : StateInv armed :=
  inv_of_checks _ rfl rfl rfl (by decide) (by decide) (by decide) (by decide)
    (inpOk_of_checks _ _ (by decide) (by decide) (by decide) (by decide) (by decide) (by decide))
    (by decide)

theorem witness_inv_full : StateInv full :=
  inv_of_checks _ rfl rfl rfl (by decide) (by decide) (by decide) (by decide)
    (inpOk_of_checks _ _ (by decide) (by decide) (by decide) (by decide) (by decide) (by decide))
    (by decide)

/-- Every well-formed term, DecodeEncodeRoundTrip. -/
theorem witness_decode_encode_round_trip :
    (Instr.text 2 1 6 [0x48, 0x45, 0x4C, 0x4C, 0x4F]).wellFormed = true := by decide

/-- DecodedCommandReencodes, with words left over. -/
theorem witness_decoded_command_reencodes :
    decode [0x05000000, 0x0001FFFF, 0x00050003, 9, 0x01000000] =
      .command (.rect 0xFFFF 1 3 5 9) [0x01000000] := by decide

/-- ReservedEncodingsAreIllegal: the boundaries 0x50 and 0x51 among the numbers, and a state. -/
theorem witness_reserved_opcode :
    Opcode.ofNumber 0x50 = some .rdreg ∧ Opcode.ofNumber 0x51 = none ∧
    Opcode.ofNumber 0x07 = some .text ∧ Opcode.ofNumber 0x08 = none ∧
    (placed [0x51000000, 7]).cfg.Valid ∧ (placed [0x51000000, 7]).agenda = [] ∧
    (placed [0x51000000, 7]).sys.halted = false ∧ (placed [0x51000000, 7]).port.job = none ∧
    Opcode.ofNumber (opcField 0x51000000) = none ∧
    goesTo (step (placed [0x51000000, 7])) ((placed [7]).respond .illegal 0) := by decide

/-- ReservedEncodingsAreIllegal: a PSET with A ≠ 0 (vector X10) and a CHSTART with IMM ≠ 0 (X11). -/
theorem witness_reserved_field :
    ((placed [0x03010000, 1, 2, 5]).cfg.Valid ∧ (placed [0x03010000, 1, 2, 5]).agenda = [] ∧
      (placed [0x03010000, 1, 2, 5]).sys.halted = false ∧
      (placed [0x03010000, 1, 2, 5]).port.job = none ∧
      Opcode.ofNumber (opcField 0x03010000) = some .pset ∧
      operandCount Opcode.pset.format 0x03010000 [1, 2, 5] = some 2 ∧
      Opcode.pset.format ∈ [Format.z, .i, .p, .l, .r, .b, .t, .v] ∧ aField 0x03010000 ≠ 0 ∧
      goesTo (step (placed [0x03010000, 1, 2, 5])) ((placed [5]).respond .illegal 0)) ∧
    (Opcode.ofNumber (opcField 0x24000001) = some .chstart ∧
      operandCount Opcode.chstart.format 0x24000001 [5] = some 0 ∧
      Opcode.chstart.format ∈ [Format.z, .cZero, .cw1, .cw2, .p, .l, .r, .b, .v] ∧
      lowHalf 0x24000001 ≠ 0 ∧
      goesTo (step (placed [0x24000001, 5])) ((placed [5]).respond .illegal 0)) := by decide

/-- StepRunsDecodedCommand, for an empty and a written agenda. -/
theorem witness_step_runs_decoded_command :
    (placed [0x01000000, 7] [.host, .tb]).cfg.Valid ∧
    (placed [0x01000000, 7] [.host, .tb]).agenda = .host :: [.tb] ∧
    (placed [0x01000000, 7]).agenda = [] ∧
    (placed [0x01000000, 7] [.host, .tb]).sys.halted = false ∧
    (placed [0x01000000, 7] [.host, .tb]).port.job = none ∧
    decode (placed [0x01000000, 7] [.host, .tb]).port.cmd = .command .back [7] ∧
    goesTo (step (placed [0x01000000, 7] [.host, .tb])) ((placed [7] [.tb]).respond .ok 1) := by
  decide

/-- OutOfRangeOperandIsIllegal: the least value out of range for each operand (vectors L4 to L10). -/
theorem witness_out_of_range_operand :
    State.reset.sys.halted = false ∧
    State.reset.cfg.nCh ≤ (4 : BitVec 8).toNat ∧ 4 < (5 : Half).toNat ∧
    256 < (257 : Half).toNat ∧ 1 < (2 : Half).toNat ∧
    State.reset.cfg.smpSize < (10 : Word).toNat + (3 : Word).toNat ∧
    State.reset.cfg.smpSize < (0xFFFFFFFF : Word).toNat + (2 : Word).toNat ∧
    State.reset.reg (0x0008 : Half).toNat = none ∧
    [Instr.chstart 4, .chstop 4, .chfreq 4 1, .chpos 4 1, .chwave 4 0, .chvol 4 0, .chloop 4 0,
        .chtable 4 0 0, .chwave 0 5, .chvol 0 257, .chloop 1 2, .chtable 1 10 3,
        .chtable 1 0xFFFFFFFF 2, .rdreg 0x0008].all
      (fun i => decide (goesTo (exec i State.reset) (State.reset.respond .illegal 0))) = true := by
  decide

/-- DisallowedPhaseIsIllegal (vectors L11, L13, T2, T5, T6). -/
theorem witness_disallowed_phase :
    (inPhase .drawing .draw).sys.halted = false ∧ (inPhase .drawing .draw).fts.phase ≠ .idle ∧
    (inPhase .idle .init).fts.cbreq ≠ .none ∧ (inPhase .sampling .none).fts.cbreq = .none ∧
    goesTo (exec .swap (inPhase .drawing .draw)) ((inPhase .drawing .draw).respond .illegal 0) ∧
    goesTo (exec (.cbret 0) (inPhase .sampling .none))
      ((inPhase .sampling .none).respond .illegal 0) := by decide

/-- FailedCommandChangesNoState: one case for each of the three conditions. -/
theorem witness_failed_command :
    got (exec .swap armed) (fun t => t.out.rsp) = some (armed.out.rsp ++ [⟨.notReady, 0⟩]) ∧
    got (exec .dtry faulted) (fun t => t.out.rsp) =
      some (faulted.out.rsp ++ [⟨.hardwareFault, 0⟩]) ∧
    got (exec (.chstart 4) State.reset) (fun t => t.out.rsp) =
      some (State.reset.out.rsp ++ [⟨.illegal, 0⟩]) := by decide

/-- SwapExchangesTheRoles, BackAnswersTheBackIndex, the drawing, DCOMP, DTRY, DCLR, DRESET statements. -/
theorem witness_idle_and_free :
    State.reset.sys.halted = false ∧ State.reset.fts.phase = .idle ∧
    State.reset.dos.fault = false ∧ State.reset.dos.dstate = .idle := by decide

/-- SwapIsTurnedAwayOrHolds, DtryAndDwaitAnswer: each clause. -/
theorem witness_swap_turned_away_or_holds :
    (faulted.sys.halted = false ∧ faulted.fts.phase = .idle ∧ faulted.dos.fault = true ∧
      faulted.dos.dstate = .idle) ∧
    (armed.sys.halted = false ∧ armed.fts.phase = .idle ∧ armed.dos.fault = false ∧
      armed.dos.dstate ≠ .idle ∧ armed.cfg.swapBlock = false) ∧
    (blocking.sys.halted = false ∧ blocking.fts.phase = .idle ∧ blocking.dos.fault = false ∧
      blocking.dos.dstate ≠ .idle ∧ blocking.cfg.swapBlock = true) ∧
    goesTo (exec .swap blocking) (holding .swap blocking) := by decide

/-- HeldSwapAndDwaitGoOnWhenIdle: a hold that lasts, one that ends and one that fails (W7, W8, D11). -/
theorem witness_held_swap_and_dwait :
    goesTo (turn .host (holding .swap blocking)) (holding .swap blocking) ∧
    goesTo (turn .host (holding .dwait armed)) (holding .dwait armed) ∧
    ((holding .swap faulted).port.job = some .swap ∧ (holding .swap faulted).dos.dstate = .idle ∧
      (holding .swap faulted).dos.fault = true) ∧
    got (turn .host (holding .swap State.reset)) (fun s => s.out.rsp) = some [⟨.ok, 0⟩] ∧
    got (turn .host (holding .dwait State.reset)) (fun s => s.out.rsp) = some [⟨.ok, 0⟩] ∧
    got (turn .host (holding .dwait faulted)) (fun s => s.out.rsp) =
      some [⟨.hardwareFault, 0⟩] := by decide

/-- VsyncStartsOnlyAnArmedTransfer: both clauses. -/
theorem witness_vsync :
    (armed.sys.halted = false ∧ armed.dos.dstate = .armed) ∧ halted.sys.halted = true ∧
    active.dos.dstate ≠ .armed := by decide

/-- TransferStreamsTheWholeFrame, StalledTransferTimesOut (n = 99 and n = 100, vectors D9, D10). -/
theorem witness_transfer :
    StateInv armed ∧ armed.sys.halted = false ∧ armed.dos.dstate = .armed ∧
    armed.env.panelAck = true ∧ armed.sys.time.toNat + 100 < 2 ^ 64 ∧
    armed.dos.tmoCnt.toNat + 99 < armed.cfg.xferTimeout ∧
    armed.dos.tmoCnt.toNat + 100 = armed.cfg.xferTimeout :=
  ⟨witness_inv_armed, by decide⟩

/-- TransferStreamsTheWholeFrame: each reason for which a D_WORD is not enabled, and an enabled one at the
last pixel (vectors D5, D6, D8). -/
theorem witness_word_steps :
    ({ active with sys := halted.sys }.sys.halted = true ∧ armed.dos.dstate ≠ .active ∧
      goesTo (turn .dword { active with env := { active.env with panelAck := false } })
        { active with env := { active.env with panelAck := false } } ∧
      { active.dos with didx := 12 }.dbytes.toNat ≤ 12 * active.cfg.pixelBytes) ∧
    ({ active.dos with didx := 11 }.dstate = .active ∧ active.sys.halted = false ∧
      active.env.panelAck = true ∧ 11 * active.cfg.pixelBytes < active.dos.dbytes.toNat ∧
      11 < active.cfg.nPix ∧ (11 + 1) * active.cfg.pixelBytes = active.dos.dbytes.toNat) := by
  decide

/-- RolesChangeOnlyInASwap: a step under a pending transfer, and a step that changes FRONT. -/
theorem witness_roles :
    (got (step { armed with agenda := [.vsync] }) (fun t => t.fbc.front) = some true ∧
      armed.dos.dstate ≠ .idle) ∧
    (got (step (placed [0x02000000])) (fun t => t.fbc.front) = some true ∧
      (placed [0x02000000]).fbc.front = false) := by decide

/-- ChannelSettingsWriteTheirField, ChstartLoadsAndChstopKeepsTheCursor: the largest values in range. -/
theorem witness_channel_settings :
    State.reset.sys.halted = false ∧ (3 : BitVec 8).toNat < State.reset.cfg.nCh ∧
    (kindCode .sample).toNat = (4 : Half).toNat ∧ (256 : Half).toNat ≤ 256 ∧
    (12 : Word).toNat + (0 : Word).toNat ≤ State.reset.cfg.smpSize ∧
    got (exec (.chloop 3 0) (channels (List.replicate 4 { Channel.reset with loop := true })))
      (fun s => s.mix.chans.map fun c => c.loop) = some [true, true, true, false] := by decide

/-- DrawingCommandsPlotTheirPoints: the data of a BLIT, at the least and at another size. -/
theorem witness_blit_data :
    ([] : List Word).length = (0 : Half).toNat * (5 : Half).toNat ∧
    ([1, 2, 3, 4] : List Word).length = (2 : Half).toNat * (2 : Half).toNat := by decide

/-- FirstStepKeepsCursorsButChstart: a CHSTART that writes one and a CHPOS that does not. -/
theorem witness_only_chstart :
    got (exec (.chpos 0 9) (channels [playing (.tone .saw) 256 1]))
      (fun t => (t.mix.chans[0]?.map fun c => c.cur)) = some (some 0) ∧
    got (exec (.chstart 0) (channels [{ playing (.tone .saw) 256 1 with pos0 := 9 }]))
      (fun t => (t.mix.chans[0]?.map fun c => c.cur)) = some (some 9) := by decide

/-- MixingIsOrderIndependent: a channel file and another order of it. -/
theorem witness_mixing_order :
    (channels [table 4 1 256, table 5 1 256]).mix.smp =
      (channels [table 5 1 256, table 4 1 256]).mix.smp ∧
    (channels [table 4 1 256, table 5 1 256]).mix.chans.Perm
      (channels [table 5 1 256, table 4 1 256]).mix.chans :=
  ⟨rfl, .swap _ _ _⟩

/-- TwoHalfVolumeTonesAverage: the channels of S7. -/
theorem witness_two_half_volume_tones :
    let s := channels [playing (.tone .square) 128 0x40000000, playing (.tone .saw) 128 0x20000000]
    s.mix.chans = playing (.tone .square) 128 0x40000000 :: playing (.tone .saw) 128 0x20000000 ::
      List.replicate 2 Channel.reset ∧
    (playing (.tone .square) 128 0x40000000).active = true ∧
    (playing (.tone .saw) 128 0x20000000).active = true ∧
    (playing (.tone .square) 128 0x40000000).kind = .tone .square ∧
    (playing (.tone .saw) 128 0x20000000).kind = .tone .saw ∧
    (playing (.tone .square) 128 0x40000000).vol = 128 ∧
    (playing (.tone .saw) 128 0x20000000).vol = 128 ∧
    (∀ ch ∈ List.replicate 2 Channel.reset, ch.active = false) := by decide

/-- MixSaturatesTheExactSumOnce: a sample that saturates, with an active and inactive channels. -/
theorem witness_mix_saturates :
    (mixOne Config.testBench (channels [table 11 1 256, table 11 1 256]).mix).map
      (fun r => r.1.toInt) = some 32767 := by decide

/-- TableChannelPlaysItsTable, TonePhaseAdvancesByStep: a table that ends with SMP, a saw. -/
theorem witness_channels_play :
    (table 9 3 256).active = true ∧ (table 9 3 256).kind = .sample ∧ (table 9 3 256).loop = false ∧
    (table 9 3 256).cur = 0 ∧ (table 9 3 256).tlen ≠ 0 ∧
    (table 9 3 256).tbase.toNat + (table 9 3 256).tlen.toNat ≤ Config.testBench.smpSize ∧
    (playing (.tone .saw) 256 0x40000000).active = true ∧
    (playing (.tone .saw) 256 0x40000000).kind = .tone .saw := by decide

/-- TableChannelPlaysItsTable, TonePhaseAdvancesByStep: a looping table, a cursor at the end of an empty
table, and a noise whose phase wraps at the second sample. -/
theorem witness_loop_end_and_noise :
    ({ table 9 3 256 with loop := true }.active = true ∧
      { table 9 3 256 with loop := true }.kind = .sample ∧
      { table 9 3 256 with loop := true }.cur = 0 ∧
      { table 9 3 256 with loop := true }.tlen ≠ 0) ∧
    (table 12 0 256).tlen.toNat ≤ (table 12 0 256).cur.toNat ∧
    (playChannel Config.testBench State.reset.mix 1 (table 12 0 256)).map
      (fun r => (r.1, r.2.active)) = some ([0], false) ∧
    (playChannel Config.testBench State.reset.mix 3 (playing (.tone .noise) 256 0x80000000)).map
      (fun r => (r.1.map BitVec.toInt, r.2.lfsr)) =
        some ([32767, 32767, -32767], 0xB400) := by decide

/-- QueueIsFirstInFirstOut: room and nothing queued (reset), samples queued (the full queue). -/
theorem witness_queue :
    State.reset.cfg.Valid ∧ mixOk State.reset.cfg State.reset.mix ∧
    mixOk full.cfg full.mix ∧ State.reset.mix.qCount.toNat < State.reset.cfg.qCap ∧
    State.reset.mix.queued State.reset.cfg = [] ∧ full.mix.queued full.cfg = 10 :: [20, 30, 40] :=
  ⟨by decide, witness_inv_reset.mix, witness_inv_full.mix, by decide, by decide, by decide⟩

/-- DrainEmitsOneSamplePerSclk: each clause. -/
theorem witness_drain :
    halted.sys.halted = true ∧ (full.sys.halted = false ∧ 0 < full.mix.qCount.toNat) ∧
    (State.reset.sys.halted = false ∧ State.reset.mix.qCount.toNat = 0) := by decide

/-- ProductionCommandsStart, MixtFillsTheQueue, MixdDropsExactlyTheOverflow, MixwWaitsForRoom: room for
four, no room, and n on both sides of Q_FREE. -/
theorem witness_production :
    StateInv State.reset ∧ State.reset.cfg.Valid ∧ State.reset.sys.halted = false ∧
    State.reset.port.job = none ∧ State.reset.cfg.qCap - State.reset.mix.qCount.toNat = 4 ∧
    full.cfg.qCap - full.mix.qCount.toNat = 0 ∧ (4 : Half).toNat ≤ State.reset.qFree ∧
    State.reset.qFree < (5 : Half).toNat :=
  ⟨witness_inv_reset, by decide⟩

/-- ProductionStepMixesOneSample: what each clause asks for, a step before the last and the last one. -/
theorem witness_production_step :
    ((mixOne State.reset.cfg State.reset.mix).isSome = true ∧ State.reset.sys.halted = false ∧
      State.reset.mix.qCount.toNat < State.reset.cfg.qCap) ∧
    ((mixOne full.cfg full.mix).isSome = true ∧ full.sys.halted = false ∧
      full.cfg.qCap ≤ full.mix.qCount.toNat ∧ (1 : Word).toNat + 1 < 2 ^ 32) ∧
    [Job.mixt 4 2, .mixd 2 0, .mixw 2 2].map (fun j =>
        got (turn .host (holding j State.reset)) fun s => (s.mix.q, s.port.job)) =
      [some ([(0, 0)], some (.mixt 4 1)), some ([(0, 0)], some (.mixd 1 0)),
        some ([(0, 0)], some (.mixw 2 1))] ∧
    [Job.mixt 4 1, .mixd 1 0, .mixd 1 3, .mixw 2 1].map (fun j =>
        got (turn .host (holding j State.reset)) fun s => s.out.rsp) =
      [some [⟨.ok, 4⟩], some [⟨.ok, 0⟩], some [⟨.bufferOverrun, 3⟩], some [⟨.ok, 2⟩]] ∧
    got (turn .host (holding (.mixd 2 1) full)) (fun s => (s.mix.q, s.port.job)) =
      some (full.mix.q, some (.mixd 1 2)) := by decide

/-- MixwWaitsForRoom: a MIXW that holds on a full queue, with the invariant. -/
theorem witness_mixw_holds :
    StateInv (holding (.mixw 2 1) full) ∧ (holding (.mixw 2 1) full).sys.halted = false ∧
    (holding (.mixw 2 1) full).port.job = some (.mixw 2 1) ∧
    (holding (.mixw 2 1) full).qFull = true := by
  obtain ⟨hc, hf, hd, hm, hi, hp, ht, -⟩ := witness_inv_full
  exact ⟨⟨hc, hf, hd, hm, hi, hp, ht, (by decide : (1 : Word) ≠ 0 ∧ 1 ≤ 2)⟩, by decide⟩

/-- InsampleAnswersTheLevel, RunRequestsInit, CbretEndsTheCallback: what each clause asks for. -/
theorem witness_input_and_callbacks :
    (State.reset.fts.phase = .idle ∧ State.reset.env.btnValid = true ∧
      State.reset.fts.cbreq = .none) ∧
    (inPhase .updating .update).fts.phase ≠ .idle ∧ (inPhase .idle .init).fts.cbreq = .init ∧
    (inPhase .updating .update).fts.cbreq = .update ∧ (inPhase .drawing .draw).fts.cbreq = .draw :=
  by decide

/-- SampleDebouncesEachButton: valid and failed reads, the last button. -/
theorem witness_sample_debounces :
    StateInv State.reset ∧
    StateInv { State.reset with env := { panelAck := true, btnRaw := 0, btnValid := false } } ∧
    1 < State.reset.cfg.nBtn ∧ State.reset.inp.dbCnt[1]? = some 0 :=
  have ⟨hc, hf, hd, hm, hi, hp, ht, hj⟩ := witness_inv_reset
  ⟨witness_inv_reset, ⟨hc, hf, hd, hm, hi, hp, ht, hj⟩, by decide⟩

/-- LineFlipsExactlyAtTheWindow: button 1 pressed, window 3. -/
theorem witness_steady_line :
    (buttons 3 2 State.reset.inp).cfg.Valid ∧
    inpOk (buttons 3 2 State.reset.inp).cfg State.reset.inp ∧
    1 < (buttons 3 2 State.reset.inp).cfg.nBtn ∧ State.reset.inp.dbCnt[1]? = some 0 ∧
    (2 : BitVec 32).getLsbD 1 ≠ State.reset.inp.level.getLsbD 1 :=
  ⟨by decide, inpOk_of_checks _ _ (by decide) (by decide) (by decide) (by decide) (by decide)
    (by decide), by decide⟩

/-- LineFlipsExactlyAtTheWindow, first clause, window 3: a bouncing line with one differing sample behind
it, whose runs of differing samples are one short of the window. -/
theorem witness_bouncing_line :
    inpOk (buttons 3 2 State.reset.inp).cfg { State.reset.inp with dbCnt := [0, 1] } ∧
    { State.reset.inp with dbCnt := [0, 1] }.dbCnt[1]? = some 1 ∧
    (∀ i k, i + k ≤ [2, 0, 2, 2, 0].length → k = (if i = 0 then 3 - (1 : BitVec 16).toNat else 3) →
      ∃ j raw, i ≤ j ∧ j < i + k ∧ ([2, 0, 2, 2, 0] : List (BitVec 32))[j]? = some raw ∧
        raw.getLsbD 1 = State.reset.inp.level.getLsbD 1) ∧
    (sampleSeq (buttons 3 2 State.reset.inp).cfg [2, 0, 2, 2, 0]
      { State.reset.inp with dbCnt := [0, 1] }).level = 0 := by
  refine ⟨inpOk_of_checks _ _ (by decide) (by decide) (by decide) (by decide) (by decide)
    (by decide), by decide, ?_, by decide⟩
  intro i k h hk
  match i, hk with
  | 0, hk => exact ⟨1, 0, by omega, by simp at hk; omega, rfl, by decide⟩
  | 1, hk => exact ⟨1, 0, by omega, by simp at hk; omega, rfl, by decide⟩
  | 2, hk => exact ⟨4, 0, by omega, by simp at hk; omega, rfl, by decide⟩
  | n + 3, hk => simp at hk h; omega

/-- PanicHaltsTheDevice: a PANIC that answers. -/
theorem witness_panic :
    goesTo (exec .panic State.reset) ({ State.reset with sys := halted.sys }.respond .ok 0) := by decide

/-- RdregAnswersTheRegister, RegisterMapIsTheTable: a register of each kind, the last button and channel
and the first numbers behind them. -/
theorem witness_registers :
    State.reset.reg 0x0007 = some 0 ∧ State.reset.reg 0x0008 = none ∧
    (1 < State.reset.cfg.nBtn ∧ State.reset.inp.dbCnt[1]? = some 0) ∧
    (3 < State.reset.cfg.nCh ∧ State.reset.mix.chans[3]? = some Channel.reset) ∧
    (State.reset.reg 0x0137).isSome = true ∧ State.reset.reg 0x0140 = none := by decide

/-- SamplingStepRequestsUpdate, PresentingStepSwapsWhenTheSequencerIsFree: each clause. -/
theorem witness_scheduler_steps :
    ((inPhase .sampling .none).sys.halted = false ∧ (inPhase .sampling .none).port.job = none ∧
      (inPhase .sampling .none).fts.phase = .sampling) ∧
    ((inPhase .presenting .none).fts.phase = .presenting ∧
      (inPhase .presenting .none).dos.dstate = .idle ∧
      (inPhase .presenting .none).dos.fault = false) ∧
    ((armed.dos.dstate ≠ .idle ∧ faulted.dos.fault = true) ∧
      goesTo (turn .sched { faulted with fts := (inPhase .presenting .none).fts })
        { faulted with fts := (inPhase .presenting .none).fts }) := by decide

/-- WaitingStepsTopUpThenAdvanceTheTick: each of the four clauses (vectors T12 to T14). -/
theorem witness_waiting_steps :
    ((waiting 4).sys.halted = false ∧ (waiting 4).port.job = none ∧
      (waiting 4).fts.phase = .waitingForVsync ∧ (waiting 4).fts.topupN ≠ 0) ∧
    full.cfg.qCap ≤ full.mix.qCount.toNat ∧
    ((waiting 4).mix.qCount.toNat < (waiting 4).cfg.qCap ∧
      (mixOne (waiting 4).cfg (waiting 4).mix).isSome = true) ∧
    ((waiting 0).fts.topupN = 0 ∧ (waiting 0).fts.tick.toNat + 1 < 2 ^ 64 ∧
      (waiting 0).cfg.paceEn = false) ∧
    (paced.fts.topupN = 0 ∧ paced.cfg.paceEn = true ∧
      paced.sys.time.toNat < paced.fts.tStart.toNat + paced.cfg.framePeriod ∧
      goesTo (turn .sched paced) paced) := by decide

/-- PhasesFollowTheFixedOrder: a step that changes the phase, from a state with the invariant. -/
theorem witness_phases :
    StateInv { inPhase .idle .init with port := { cmd := [0x41000000, 0], job := none } } ∧
    got (step { inPhase .idle .init with port := { cmd := [0x41000000, 0], job := none } })
      (fun t => t.fts.phase) = some .sampling := by
  obtain ⟨hc, hf, hd, hm, hi, -, ht, -⟩ := witness_inv_reset
  exact ⟨⟨hc, hf, hd, hm, hi, .inr rfl, ht, trivial⟩, by decide⟩

/-- CountersAdvanceByOneAndStickyStays: a TB step, and the step that ends a tick. -/
theorem witness_counters :
    (nextEvent { State.reset with agenda := [.tb] } = .tb ∧
      got (step { State.reset with agenda := [.tb] }) (fun t => t.sys.time) = some 1) ∧
    (nextEvent { waiting 0 with agenda := [.sched] } ≠ .tb ∧
      got (step { waiting 0 with agenda := [.sched] }) (fun t => t.fts.tick) = some 1) := by decide

/-- SnapshotChangesOnlyWhenSampled: a change by INSAMPLE and one by S_SAMPLE. -/
theorem witness_snapshot :
    got (step { buttons 1 1 State.reset.inp with port := (placed [0x30000000]).port })
      (fun t => decide (t.inp ≠ State.reset.inp)) = some true ∧
    got (step { inPhase .sampling .none with
        env := { panelAck := true, btnRaw := 1, btnValid := true }, agenda := [.sched] })
      (fun t => decide (t.inp ≠ State.reset.inp)) = some true := by decide

/-- HaltedBlockIsFrozen: a word is lost, and TIME counts. -/
theorem witness_halted :
    halted.sys.halted = true ∧
    got (step { halted with port := (placed [0x01000000]).port })
      (fun t => (t.port.cmd, t.out.rsp)) = some ([], []) ∧
    got (step { halted with agenda := [.tb] }) (fun t => t.sys.time) = some 1 := by decide

/-- PowerOnSatisfiesTheInvariant, EveryExecutionIsSafe: a configuration and a reachable state. -/
theorem witness_reachable :
    Config.testBench.Valid ∧
    Reachable Config.testBench (powerOn Config.testBench [0x02000000] [.host] State.reset.env) :=
  ⟨by decide, .start _ _ _⟩

/-- StepKeepsTheInvariant: a step from a state with the invariant. -/
theorem witness_step_from_inv :
    StateInv (placed [0x02000000]) ∧
    got (step (placed [0x02000000])) (fun t => t.dos.dstate) = some .armed :=
  have ⟨hc, hf, hd, hm, hi, hp, ht, _⟩ := witness_inv_reset
  ⟨⟨hc, hf, hd, hm, hi, hp, ht, trivial⟩, by decide⟩

/-- The last moment TIME can hold, with a TB event to come. -/
def lastMoment : State :=
  { State.reset with
    sys := { time := 0xFFFFFFFFFFFFFFFF, sticky := 0, halted := false }
    agenda := [.tb] }

/-- InvariantStatesNeverFault: the refusal its second clause speaks of. -/
theorem witness_counter_wrap :
    StateInv lastMoment ∧ refusal (step lastMoment) = some .counterWrap :=
  have ⟨hc, hf, hd, hm, hi, hp, _, hj⟩ := witness_inv_reset
  ⟨⟨hc, hf, hd, hm, hi, hp, by decide, hj⟩, by decide⟩

end Sys2Proof.Tests
end

