-- ==== Sys2Proof/Proofs/Scope.lean ====
section
/-! PROOFS. 00_scope.md: a step of HOST runs the decoded command (O5), and a state with the invariant
never faults and is refused only where TIME or TICK would wrap (O58). -/

namespace Sys2Proof.Machine

/-! ### HOST issues the decoded command -/

/-- HOST moves on an empty agenda and on one that names it. -/
theorem nextEvent_eq_host {s : State} (h : s.agenda = [] ∨ ∃ order, s.agenda = .host :: order) :
    nextEvent s = .host := by
  unfold nextEvent
  rcases h with h | ⟨order, h⟩ <;> rw [h] <;> rfl

/-- A turn of HOST with no command under way takes the words of a whole command and runs it. -/
theorem hostTurn_command {s : State} {i : Instr} {rest : List Word} (hh : s.sys.halted = false)
    (hj : s.port.job = none) (hd : decode s.port.cmd = .command i rest) :
    hostTurn s = exec i (s.setCmd rest) := by
  simp [hostTurn, issueCommand, hh, hj, hd]

/-- The state a command without a predecessor under way runs in: agenda entry and words taken. -/
theorem popEvent_setCmd {s : State} (hj : s.port.job = none) (rest : List Word) :
    (popEvent s).setCmd rest =
      { s with agenda := s.agenda.tail, port := { cmd := rest, job := none } } := by
  rw [← hj]
  rfl

/-- Settles O5: the turn is HOST's, and HOST's turn issues the command. -/
theorem stepRunsDecodedCommand : Obligations.StepRunsDecodedCommand := by
  intro s i rest hc ha hh hj hd
  calc step s = hostTurn (popEvent s) := by rw [step_valid hc, nextEvent_eq_host ha]; rfl
    _ = exec i ((popEvent s).setCmd rest) := hostTurn_command (s := popEvent s) hh hj hd
    _ = _ := by rw [popEvent_setCmd hj]

/-! ### The preconditions the invariant discharges -/

/-- With every channel's table in SMP (20_memory.md R78), MixOne has a sample. -/
theorem mixOk.mixOne_ne_none {c : Config} {m : Mix} (h : mixOk c m) : mixOne c m ≠ none := by
  obtain ⟨_, hchans, _⟩ := h
  obtain ⟨v, m', e⟩ := mixOne_exists hchans
  rw [e]
  exact Option.some_ne_none _

/-- A MIXT under way finds room for the sample it is about to make (42_audio.md R193). -/
theorem jobOk_mixt {s : State} {k left : Word} (h : jobOk s)
    (hj : s.port.job = some (.mixt k left)) : left ≠ 0 ∧ s.qFull = false := by
  simp only [jobOk, hj] at h
  obtain ⟨hleft, _, hroom⟩ := h
  refine ⟨hleft, qFull_eq_false.2 ?_⟩
  unfold State.qFree at hroom
  bv_omega

theorem jobOk_mixd {s : State} {left drop : Word} (h : jobOk s)
    (hj : s.port.job = some (.mixd left drop)) : left ≠ 0 := by
  simp only [jobOk, hj] at h
  exact h.1

theorem jobOk_mixw {s : State} {n left : Word} (h : jobOk s)
    (hj : s.port.job = some (.mixw n left)) : left ≠ 0 := by
  simp only [jobOk, hj] at h
  exact h.1

/-- An enabled D_WORD reads an element of the Frame (41_display.md R161). -/
theorem didx_lt_of_dWordEnabled {s : State} (h : dosOk s.cfg s.fbc.front s.dos)
    (he : dWordEnabled s = true) : s.dos.didx.toNat < s.cfg.nPix := by
  obtain ⟨_, hactive, _⟩ := (dWordEnabled_iff s).1 he
  obtain ⟨_, _, hbusy, _⟩ := h
  obtain ⟨_, _, hidx, _⟩ := hbusy (by rw [hactive]; decide)
  exact hidx

/-! ### Turns that always answer a next state -/

theorem mixtLoop_next (k left : Word) (s : State) : ∃ t, mixtLoop k left s = .next t := by
  by_cases h : left = 0
  · subst h
    exact ⟨_, mixtLoop_zero k s⟩
  · exact ⟨_, mixtLoop_more k h s⟩

theorem mixdLoop_next (left drop : Word) (s : State) : ∃ t, mixdLoop left drop s = .next t := by
  by_cases h : left = 0
  · subst h
    by_cases hd : drop = 0
    · subst hd
      exact ⟨_, mixdLoop_zero_zero s⟩
    · exact ⟨_, mixdLoop_dropped hd s⟩
  · exact ⟨_, mixdLoop_more h drop s⟩

theorem mixwLoop_next (n left : Word) (s : State) : ∃ t, mixwLoop n left s = .next t := by
  by_cases h : left = 0
  · subst h
    exact ⟨_, mixwLoop_zero n s⟩
  · exact ⟨_, mixwLoop_more n h s⟩

/-- The command under way always takes its next step. -/
theorem StateInv.continueJob_next {s : State} {j : Job} (h : StateInv s)
    (hj : s.port.job = some j) : ∃ t, continueJob j s = .next t := by
  have hmix := h.mix.mixOne_ne_none
  cases j with
  | swap =>
    rcases continueSwap_cases s with ⟨_, e⟩ | ⟨_, _, e⟩ | ⟨_, _, e⟩ <;> exact ⟨_, e⟩
  | dwait =>
    rcases continueDwait_cases s with ⟨_, e⟩ | ⟨_, _, e⟩ | ⟨_, _, e⟩ <;> exact ⟨_, e⟩
  | mixt k left =>
    obtain ⟨hleft, hroom⟩ := jobOk_mixt h.job hj
    rcases continueMixt_cases k hleft s with ⟨hfull, _⟩ | ⟨_, hnone, _⟩ | ⟨_, v, m, _, e⟩
    · simp [hroom] at hfull
    · exact absurd hnone hmix
    · exact (mixtLoop_next k (left - 1) (s.made v m)).imp fun _ e' => e.trans e'
  | mixd left drop =>
    rcases continueMixd_cases drop (jobOk_mixd h.job hj) s with
      ⟨hnone, _⟩ | ⟨v, m, _, ⟨_, e⟩ | ⟨_, e⟩⟩
    · exact absurd hnone hmix
    · exact (mixdLoop_next (left - 1) (drop + 1) _).imp fun _ e' => e.trans e'
    · exact (mixdLoop_next (left - 1) drop (s.made v m)).imp fun _ e' => e.trans e'
  | mixw n left =>
    rcases continueMixw_cases n (jobOk_mixw h.job hj) s with
      ⟨_, e⟩ | ⟨_, hnone, _⟩ | ⟨_, v, m, _, e⟩
    · exact ⟨_, e⟩
    · exact absurd hnone hmix
    · exact (mixwLoop_next n (left - 1) (s.made v m)).imp fun _ e' => e.trans e'

theorem StateInv.hostTurn_next {s : State} (h : StateInv s) : ∃ t, hostTurn s = .next t := by
  rcases hostTurn_cases s with
    ⟨_, e⟩ | ⟨_, j, hj, e⟩ | ⟨_, _, ⟨i, rest, _, e⟩ | ⟨_, _, _, e⟩ | ⟨_, e⟩⟩
  · exact ⟨_, e⟩
  · exact (h.continueJob_next hj).imp fun _ e' => e.trans e'
  · exact (exec_next i (s.setCmd rest)).imp fun _ e' => e.trans e'
  · exact ⟨_, e⟩
  · exact ⟨_, e⟩

theorem StateInv.sTopup_next {s : State} (h : StateInv s) : ∃ t, sTopup s = .next t := by
  rcases sTopup_cases s with ⟨_, e⟩ | ⟨_, hnone, _⟩ | ⟨_, _, _, _, e⟩
  · exact ⟨_, e⟩
  · exact absurd hnone h.mix.mixOne_ne_none
  · exact ⟨_, e⟩

theorem StateInv.dWord_next {s : State} (h : StateInv s) : ∃ t, dWord s = .next t := by
  rcases dWord_cases s with ⟨_, e⟩ | ⟨he, hout, _⟩ | ⟨_, _, e⟩
  · exact ⟨_, e⟩
  · have := didx_lt_of_dWordEnabled h.dos he
    omega
  · exact ⟨_, e⟩

/-! ### The turns that may be refused -/

/-- The outcomes of a turn that a state with the invariant allows: a next state, or the refusal where
TIME or TICK is at its last value (93_implementation_defined.md U9). -/
inductive NextOrWrap (s : State) : Result → Prop
  | next (t : State) : NextOrWrap s (.next t)
  | wrap : s.sys.time.toNat + 1 = 2 ^ 64 ∨ s.fts.tick.toNat + 1 = 2 ^ 64 →
      NextOrWrap s (.refused .counterWrap)

theorem NextOrWrap.of_next {s : State} {r : Result} (h : ∃ t, r = .next t) : NextOrWrap s r := by
  obtain ⟨t, rfl⟩ := h
  exact .next t

theorem NextOrWrap.not_fault {s : State} {r : Result} (h : NextOrWrap s r) (f : Fault) :
    r ≠ .fault f := by
  cases h <;> exact fun e => by cases e

theorem NextOrWrap.of_refused {s : State} {r : Refusal} (h : NextOrWrap s (.refused r)) :
    r = .counterWrap ∧ (s.sys.time.toNat + 1 = 2 ^ 64 ∨ s.fts.tick.toNat + 1 = 2 ^ 64) := by
  cases h with
  | wrap hw => exact ⟨rfl, hw⟩

theorem tbStep_nextOrWrap (s : State) : NextOrWrap s (tbStep s) := by
  rcases tbStep_cases s with ⟨_, e⟩ | ⟨hw, e⟩ <;> rw [e]
  · exact .next _
  · exact .wrap (.inl hw)

theorem sNext_nextOrWrap (s : State) : NextOrWrap s (sNext s) := by
  rcases sNext_cases s with ⟨_, e⟩ | ⟨hw, e⟩ <;> rw [e]
  · exact .next _
  · exact .wrap (.inr hw)

theorem StateInv.schedTurn_nextOrWrap {s : State} (h : StateInv s) :
    NextOrWrap s (schedTurn s) := by
  rcases schedTurn_cases s with
    e | ⟨_, _, ⟨_, e⟩ | ⟨_, _, _, e⟩ | ⟨_, _, e⟩ | ⟨_, _, _, e⟩⟩ <;> rw [e]
  · exact .next _
  · exact .next _
  · exact .next _
  · exact .of_next h.sTopup_next
  · exact sNext_nextOrWrap s

/-- Every agent's turn: only TB and S_NEXT can be refused, and none faults. -/
theorem StateInv.turn_nextOrWrap {s : State} (h : StateInv s) (e : Event) :
    NextOrWrap s (turn e s) := by
  cases e with
  | host => exact .of_next h.hostTurn_next
  | sched => exact h.schedTurn_nextOrWrap
  | dword => exact .of_next h.dWord_next
  | tb => exact tbStep_nextOrWrap s
  | vsync => exact .next _
  | sclk => exact .next _
  | panelAck level => exact .next _
  | btnRaw levels => exact .next _
  | btnValid level => exact .next _

/-- A step is a turn after the agenda entry is taken, which moves neither TIME nor TICK. -/
theorem step_nextOrWrap {s : State} (h : StateInv s) : NextOrWrap (popEvent s) (step s) := by
  rw [step_valid h.cfg]
  exact h.popEvent.turn_nextOrWrap _

/-- Settles O58, by `step_nextOrWrap`: the invariant discharges the precondition of every
MemRead and Enqueue, and only the two counters are left to be refused. -/
theorem invariantStatesNeverFault : Obligations.InvariantStatesNeverFault := by
  intro s h
  have hstep := step_nextOrWrap h
  refine ⟨hstep.not_fault, fun r hr => ?_⟩
  rw [hr] at hstep
  exact hstep.of_refused

end Sys2Proof.Machine
end

section
/-! PROOFS. 10_state.md: every step keeps the invariant (O57), the register map (O46), the counters
and STICKY (O52), every execution is safe (O59), and the packed views (O47). -/

namespace Sys2Proof.Machine

variable {s t : State}

/-! ### One part of a state with the invariant replaced -/

theorem StateInv.with_fbc {f : Fbc} (h : StateInv s) (hf : fbcOk s.cfg f)
    (hfront : f.front = s.fbc.front) : StateInv { s with fbc := f } :=
  ⟨h.cfg, hf, by simpa only [hfront] using h.dos, h.mix, h.inp, h.fts, h.time, h.job⟩

theorem StateInv.with_dos {d : Dos} (h : StateInv s) (hd : dosOk s.cfg s.fbc.front d) :
    StateInv { s with dos := d } :=
  ⟨h.cfg, h.fbc, hd, h.mix, h.inp, h.fts, h.time, h.job⟩

theorem StateInv.with_mix {m : Mix} (h : StateInv s) (hm : mixOk s.cfg m)
    (hj : jobOk { s with mix := m }) : StateInv { s with mix := m } :=
  ⟨h.cfg, h.fbc, h.dos, hm, h.inp, h.fts, h.time, hj⟩

theorem StateInv.with_inp {p : Inp} (h : StateInv s) (hp : inpOk s.cfg p) :
    StateInv { s with inp := p } :=
  ⟨h.cfg, h.fbc, h.dos, h.mix, hp, h.fts, h.time, h.job⟩

theorem StateInv.with_fts {f : Fts} (h : StateInv s) (hf : ftsOk f)
    (ht : f.tStart.toNat ≤ s.sys.time.toNat) (hj : jobOk { s with fts := f }) :
    StateInv { s with fts := f } :=
  ⟨h.cfg, h.fbc, h.dos, h.mix, h.inp, hf, ht, hj⟩

theorem StateInv.with_sys {y : Sys} (h : StateInv s) (ht : s.sys.time.toNat ≤ y.time.toNat) :
    StateInv { s with sys := y } :=
  ⟨h.cfg, h.fbc, h.dos, h.mix, h.inp, h.fts, h.time.trans ht, h.job⟩

theorem StateInv.with_env (h : StateInv s) (v : Env) : StateInv { s with env := v } :=
  ⟨h.cfg, h.fbc, h.dos, h.mix, h.inp, h.fts, h.time, h.job⟩

theorem StateInv.with_out (h : StateInv s) (o : Out) : StateInv { s with out := o } :=
  ⟨h.cfg, h.fbc, h.dos, h.mix, h.inp, h.fts, h.time, h.job⟩

theorem StateInv.setJob {j : Option Job} (h : StateInv s) (hj : jobOk (s.setJob j)) :
    StateInv (s.setJob j) :=
  ⟨h.cfg, h.fbc, h.dos, h.mix, h.inp, h.fts, h.time, hj⟩

/-- A job stays consistent while the queue does not grow. -/
theorem jobOk_with_mix {m : Mix} (h : jobOk s) (hq : m.qCount.toNat ≤ s.mix.qCount.toNat) :
    jobOk { s with mix := m } := by
  unfold jobOk at h ⊢
  cases hj : s.port.job with
  | none => trivial
  | some j =>
    rw [hj] at h
    cases j with
    | mixt k left =>
      obtain ⟨hleft, hle, hfree⟩ := h
      exact ⟨hleft, hle, hfree.trans (Nat.sub_le_sub_left hq _)⟩
    | swap => exact h
    | dwait => exact h
    | mixd left drop => exact h
    | mixw n left => exact h

/-! ### The first step of a command keeps the invariant -/

/-- A timeout makes the sequencer idle and keeps D_REMAIN (41_display.md R163). -/
theorem dosOk_timeout {c : Config} {front : Bool} {d : Dos} (h : dosOk c front d) (n : BitVec 32) :
    dosOk c front { d with tmoCnt := n, dstate := .idle, fault := true } := by
  obtain ⟨hremain, _⟩ := h
  exact dosOk_idle rfl hremain

/-- Clearing FAULT asks nothing of DSTATE (41_display.md R158). -/
theorem dosOk_dclr {c : Config} {front : Bool} {d : Dos} (h : dosOk c front d) :
    dosOk c front { d with fault := false } := by
  obtain ⟨hremain, _, hbusy, harmed⟩ := h
  exact ⟨hremain, (nomatch ·), hbusy, harmed⟩

theorem StateInv.sampleInputs (h : StateInv s) : StateInv (sampleInputs s) := by
  have hp := inpOk_sampleInputs h.cfg h.inp
  rcases sampleInputs_cases s with ⟨_, e⟩ | ⟨_, e⟩ <;> rw [e] at hp ⊢
  · exact h.with_inp hp
  · exact (h.with_inp hp).setSticky _

@[simp] theorem sampleInputs_cfg : (sampleInputs s).cfg = s.cfg := by
  rcases sampleInputs_cases s with ⟨_, e⟩ | ⟨_, e⟩ <;> simp [e]

@[simp] theorem sampleInputs_fts : (sampleInputs s).fts = s.fts := by
  rcases sampleInputs_cases s with ⟨_, e⟩ | ⟨_, e⟩ <;> simp [e]

@[simp] theorem sampleInputs_port : (sampleInputs s).port = s.port := by
  rcases sampleInputs_cases s with ⟨_, e⟩ | ⟨_, e⟩ <;> simp [e]

@[simp] theorem sampleInputs_time : (sampleInputs s).sys.time = s.sys.time := by
  rcases sampleInputs_cases s with ⟨_, e⟩ | ⟨_, e⟩ <;> simp [e]

/-- The return of a callback leaves the time stamps and TICK alone (44_scheduler.md R233). -/
theorem callbackReturned_frame (v : Word) (f : Fts) :
    (callbackReturned v f).tick = f.tick ∧ (callbackReturned v f).tStart = f.tStart := by
  unfold callbackReturned
  split <;> exact ⟨rfl, rfl⟩

/-- MX_LEFT of a starting MIXT is at most Q_FREE (42_audio.md R193). -/
theorem jobOk_setJob_mixt (h : BitVec.ofNat 32 s.qFree ≠ 0) :
    jobOk (s.setJob (some (.mixt (BitVec.ofNat 32 s.qFree) (BitVec.ofNat 32 s.qFree)))) := by
  refine ⟨h, le_refl _, ?_⟩
  rw [BitVec.toNat_ofNat]
  exact Nat.mod_le _ _

theorem jobOk_setJob_mixd {n : Half} (h : n ≠ 0) :
    jobOk (s.setJob (some (.mixd (n.setWidth 32) 0))) := by
  refine ⟨by bv_omega, ?_⟩
  have := n.isLt
  simp
  omega

theorem jobOk_setJob_mixw {n : Half} (h : n ≠ 0) :
    jobOk (s.setJob (some (.mixw (n.setWidth 32) (n.setWidth 32)))) :=
  ⟨by bv_omega, le_refl _⟩

/-- Each effect of a legal command, with no command under way, keeps the invariant. -/
theorem StateInv.effect {i : Instr} (h : StateInv s) (hj : s.port.job = none)
    (he : Effect s i t) : StateInv t := by
  cases he with
  | answer => exact h.respond _ _
  | draw points =>
    exact (h.with_fbc (fbcOk_plotAll _ h.fbc) (plotAll_front ..)).respond _ _
  | swap _ _ hfault => exact (h.doSwap hfault).respond _ _
  | holdSwap hphase _ _ hblock => exact h.setJob ⟨hphase, hblock⟩
  | holdDwait => exact h.setJob trivial
  | dclr => exact (h.with_dos (dosOk_dclr h.dos)).respond _ _
  | dreset => exact (h.with_dos (dosOk_idle rfl (by simp))).respond _ _
  | channel _ ch f _ hw =>
    exact (h.with_mix (mixOk_modifyChan h.mix ch fun _ => chanOk_write hw)
      (jobOk_none hj)).respond _ _
  | nothing => exact h.setJob_none.respond _ _
  | mixt hroom => exact h.setJob (jobOk_setJob_mixt hroom)
  | mixd n hn => exact h.setJob (jobOk_setJob_mixd hn)
  | mixw n hn => exact h.setJob (jobOk_setJob_mixw hn)
  | insample => exact h.sampleInputs.respond _ _
  | run hphase =>
    have hfts : ftsOk { s.fts with cbreq := .init } := by simp [ftsOk, hphase]
    exact (h.with_fts hfts h.time (jobOk_none hj)).respond _ _
  | cbret v =>
    have htime : (callbackReturned v s.fts).tStart.toNat ≤ s.sys.time.toNat := by
      rw [(callbackReturned_frame v s.fts).2]
      exact h.time
    exact (h.with_fts (ftsOk_callbackReturned v h.fts) htime (jobOk_none hj)).respond _ _
  | panic => exact (h.with_sys (y := { s.sys with halted := true }) (le_refl _)).respond _ _

theorem StateInv.exec {i : Instr} (h : StateInv s) (hj : s.port.job = none)
    (e : exec i s = .next t) : StateInv t := by
  rcases exec_cases i s with ⟨_, e'⟩ | ⟨_, _, e'⟩ | ⟨_, _, u, he, e'⟩ <;> cases e.symm.trans e'
  · exact h
  · exact h.respond _ _
  · exact h.effect hj he

/-! ### The further steps of a command under way keep the invariant -/

/-- What the loop of a production command answers with MX_LEFT = `left` (42_audio.md R193 to R195):
the end of the command, or the command under way as `j`. -/
inductive LoopAnswer (s : State) (left : Word) (j : Job) : Result → Prop
  | ended (c : Cond) (v : BitVec 64) : left = 0 →
      LoopAnswer s left j (.next ((s.setJob none).respond c v))
  | more : left ≠ 0 → LoopAnswer s left j (.next (s.setJob (some j)))

theorem mixtLoop_answer (k left : Word) (s : State) :
    LoopAnswer s left (.mixt k left) (mixtLoop k left s) := by
  by_cases h : left = 0
  · rw [h, mixtLoop_zero]
    exact .ended _ _ rfl
  · rw [mixtLoop_more k h]
    exact .more h

theorem mixdLoop_answer (left drop : Word) (s : State) :
    LoopAnswer s left (.mixd left drop) (mixdLoop left drop s) := by
  by_cases h : left = 0
  · by_cases hd : drop = 0
    · rw [h, hd, mixdLoop_zero_zero]
      exact .ended _ _ rfl
    · rw [h, mixdLoop_dropped hd]
      exact .ended _ _ rfl
  · rw [mixdLoop_more h]
    exact .more h

theorem mixwLoop_answer (n left : Word) (s : State) :
    LoopAnswer s left (.mixw n left) (mixwLoop n left s) := by
  by_cases h : left = 0
  · rw [h, mixwLoop_zero]
    exact .ended _ _ rfl
  · rw [mixwLoop_more n h]
    exact .more h

/-- A loop keeps the invariant when the job it puts under way is consistent. The job of `s` itself,
which the loop replaces, is not asked to be. -/
theorem StateInv.loopAnswer {left : Word} {j : Job} (h : StateInv (s.setJob none))
    (ha : LoopAnswer s left j (.next t)) (hj : left ≠ 0 → jobOk (s.setJob (some j))) :
    StateInv t := by
  cases ha with
  | ended c v => exact h.respond c v
  | more hleft => exact StateInv.setJob (s := s.setJob none) h (hj hleft)

/-- The state of a sample-step before its loop, when the queue has room. -/
theorem StateInv.made {v : Sample} {m : Mix} (h : StateInv s) (hq : s.qFull = false)
    (e : mixOne s.cfg s.mix = some (v, m)) : StateInv ((s.made v m).setJob none) :=
  h.setJob_none.with_mix (made_mixer h.cfg h.mix hq e).1 trivial

/-- The state of a sample-step before its loop, when the sample is dropped (42_audio.md R194). -/
theorem StateInv.dropped {v : Sample} {m : Mix} (h : StateInv s)
    (e : mixOne s.cfg s.mix = some (v, m)) :
    StateInv ((({ s with mix := m } : State).setSticky stickyOverrun).setJob none) :=
  (h.setJob_none.with_mix (mixOk_mixOne h.mix e) trivial).setSticky _

/-- One sample fewer to make, one place less in the queue. -/
theorem jobOk_made_mixt {k left : Word} {v : Sample} {m : Mix} (h : StateInv s)
    (hj : s.port.job = some (.mixt k left)) (e : mixOne s.cfg s.mix = some (v, m))
    (hmore : left - 1 ≠ 0) :
    jobOk ((s.made v m).setJob (some (.mixt k (left - 1)))) := by
  obtain ⟨hleft, hroom⟩ := jobOk_mixt h.job hj
  obtain ⟨_, _, hcount⟩ := made_mixer h.cfg h.mix hroom e
  have hjob := h.job
  simp only [jobOk, hj, State.qFree] at hjob
  obtain ⟨_, hle, hfree⟩ := hjob
  have hpred : (left - 1).toNat = left.toNat - 1 := by bv_omega
  refine ⟨hmore, by omega, ?_⟩
  show (left - 1).toNat ≤ s.cfg.qCap - (s.made v m).mix.qCount.toNat
  omega

/-- A step of the command under way keeps the invariant. -/
theorem StateInv.continueJob {j : Job} (h : StateInv s) (hj : s.port.job = some j)
    (e : continueJob j s = .next t) : StateInv t := by
  have hjob := h.job
  simp only [jobOk, hj] at hjob
  cases j with
  | swap =>
    rcases continueSwap_cases s with ⟨_, e'⟩ | ⟨_, _, e'⟩ | ⟨_, hfault, e'⟩ <;>
      cases e.symm.trans e'
    · exact h
    · exact h.setJob_none.respond _ _
    · exact (h.setJob_none.doSwap hfault).respond _ _
  | dwait =>
    rcases continueDwait_cases s with ⟨_, e'⟩ | ⟨_, _, e'⟩ | ⟨_, _, e'⟩ <;>
      cases e.symm.trans e'
    · exact h
    · exact h.setJob_none.respond _ _
    · exact h.setJob_none.respond _ _
  | mixt k left =>
    rcases continueMixt_cases k hjob.1 s with ⟨_, e'⟩ | ⟨_, _, e'⟩ | ⟨hroom, v, m, hm, e'⟩
    · cases e.symm.trans e'
    · cases e.symm.trans e'
    · have ha := e'.symm.trans e ▸ mixtLoop_answer k (left - 1) (s.made v m)
      exact (h.made hroom hm).loopAnswer ha (jobOk_made_mixt h hj hm)
  | mixd left drop =>
    obtain ⟨hleft, hsum⟩ := hjob
    rcases continueMixd_cases drop hleft s with ⟨_, e'⟩ | ⟨v, m, hm, ⟨_, e'⟩ | ⟨hroom, e'⟩⟩
    · cases e.symm.trans e'
    · have ha := e'.symm.trans e ▸ mixdLoop_answer (left - 1) (drop + 1)
        (({ s with mix := m } : State).setSticky stickyOverrun)
      exact (h.dropped hm).loopAnswer ha fun hmore => ⟨hmore, by bv_omega⟩
    · have ha := e'.symm.trans e ▸ mixdLoop_answer (left - 1) drop (s.made v m)
      exact (h.made hroom hm).loopAnswer ha fun hmore => ⟨hmore, by bv_omega⟩
  | mixw n left =>
    obtain ⟨hleft, hle⟩ := hjob
    rcases continueMixw_cases n hleft s with ⟨_, e'⟩ | ⟨_, _, e'⟩ | ⟨hroom, v, m, hm, e'⟩
    · cases e.symm.trans e'
      exact h
    · cases e.symm.trans e'
    · have ha := e'.symm.trans e ▸ mixwLoop_answer n (left - 1) (s.made v m)
      exact (h.made hroom hm).loopAnswer ha fun hmore => ⟨hmore, by bv_omega⟩

/-! ### The turn of each agent keeps the invariant -/

theorem StateInv.hostTurn (h : StateInv s) (e : hostTurn s = .next t) : StateInv t := by
  rcases hostTurn_cases s with
    ⟨_, e'⟩ | ⟨_, j, hj, e'⟩ | ⟨_, hj, ⟨i, rest, _, e'⟩ | ⟨_, rest, _, e'⟩ | ⟨_, e'⟩⟩
  · cases e.symm.trans e'
    exact h.setCmd _
  · exact h.continueJob hj (e'.symm.trans e)
  · exact (h.setCmd rest).exec hj (e'.symm.trans e)
  · cases e.symm.trans e'
    exact (h.setCmd rest).respond _ _
  · cases e.symm.trans e'
    exact h

/-- S_SAMPLE (44_scheduler.md R240). -/
theorem StateInv.sSample (h : StateInv s) (hj : s.port.job = none) : StateInv (sSample s) :=
  h.sampleInputs.with_fts rfl (le_refl _) (jobOk_none (by simpa using hj))

/-- S_PRESENT (44_scheduler.md R243). -/
theorem StateInv.sPresent (h : StateInv s) (hj : s.port.job = none)
    (hp : s.fts.phase = .presenting) (hf : s.dos.fault = false) : StateInv (sPresent s) := by
  have hcb : s.fts.cbreq = .none := by simpa only [ftsOk, hp] using h.fts
  exact (h.doSwap hf).with_fts hcb h.time (jobOk_none hj)

/-- S_TOPUP (44_scheduler.md R245). -/
theorem StateInv.sTopup (h : StateInv s) (hj : s.port.job = none)
    (e : sTopup s = .next t) : StateInv t := by
  rcases sTopup_cases s with ⟨_, e'⟩ | ⟨_, _, e'⟩ | ⟨hroom, v, m, hm, e'⟩ <;>
    cases e.symm.trans e'
  · exact h.with_fts h.fts h.time (jobOk_none hj)
  · have hmade : StateInv (s.made v m) :=
      h.with_mix (made_mixer h.cfg h.mix hroom hm).1 (jobOk_none hj)
    exact hmade.with_fts h.fts h.time (jobOk_none hj)

/-- S_NEXT (44_scheduler.md R246). -/
theorem StateInv.sNext (h : StateInv s) (hj : s.port.job = none)
    (hp : s.fts.phase = .waitingForVsync) (e : sNext s = .next t) : StateInv t := by
  have hcb : s.fts.cbreq = .none := by simpa only [ftsOk, hp] using h.fts
  rcases sNext_cases s with ⟨_, e'⟩ | ⟨_, e'⟩ <;> cases e.symm.trans e'
  exact h.with_fts hcb h.time (jobOk_none hj)

theorem StateInv.schedTurn (h : StateInv s) (e : schedTurn s = .next t) : StateInv t := by
  rcases schedTurn_cases s with
    e' | ⟨_, hj, ⟨_, e'⟩ | ⟨hp, _, hf, e'⟩ | ⟨_, _, e'⟩ | ⟨hp, _, _, e'⟩⟩
  · cases e.symm.trans e'
    exact h
  · cases e.symm.trans e'
    exact h.sSample hj
  · cases e.symm.trans e'
    exact h.sPresent hj hp hf
  · exact h.sTopup hj (e'.symm.trans e)
  · exact h.sNext hj hp (e'.symm.trans e)

theorem StateInv.dBegin (h : StateInv s) : StateInv (dBegin s) := by
  rcases dBegin_cases s with ⟨_, harmed, e⟩ | ⟨_, e⟩ <;> rw [e]
  · exact (h.with_dos (dosOk_begin h.dos harmed)).with_out _
  · exact h

theorem StateInv.dWord (h : StateInv s) (e : dWord s = .next t) : StateInv t := by
  rcases dWord_cases s with ⟨_, e'⟩ | ⟨_, _, e'⟩ | ⟨he, _, e'⟩ <;> cases e.symm.trans e'
  · exact h
  · obtain ⟨_, hactive, _⟩ := (dWordEnabled_iff s).1 he
    exact (h.with_dos (dosOk_word h.cfg h.dos hactive)).with_out _

theorem StateInv.countTimeout (h : StateInv s) : StateInv (countTimeout s) := by
  rcases countTimeout_cases s with ⟨_, e⟩ | ⟨_, hbusy, ht, e⟩ | ⟨_, _, _, e⟩ <;> rw [e]
  · exact h
  · exact h.with_dos (dosOk_count h.cfg h.dos hbusy ht)
  · exact (h.with_dos (dosOk_timeout h.dos _)).setSticky _

/-- TB (41_display.md R163): TIME only grows, so T_START stays in the past. -/
theorem StateInv.tbStep (h : StateInv s) (e : tbStep s = .next t) : StateInv t := by
  rcases tbStep_cases s with ⟨hlt, e'⟩ | ⟨_, e'⟩ <;> cases e.symm.trans e'
  exact (h.with_sys (by bv_omega)).countTimeout

theorem StateInv.aDrain (h : StateInv s) : StateInv (aDrain s) := by
  rcases aDrain_cases s with ⟨_, e⟩ | ⟨_, e⟩ <;> rw [e]
  · exact h
  · have hcount : (drain s.cfg s.mix).qCount.toNat ≤ s.mix.qCount.toNat := by
      rw [qCount_drain]
      exact Nat.sub_le _ _
    exact (h.with_mix (mixOk_drain h.mix) (jobOk_with_mix h.job hcount)).with_out _

theorem StateInv.turn {e : Event} (h : StateInv s) (ht : turn e s = .next t) : StateInv t := by
  cases e with
  | host => exact h.hostTurn ht
  | sched => exact h.schedTurn ht
  | dword => exact h.dWord ht
  | tb => exact h.tbStep ht
  | vsync => cases ht; exact h.dBegin
  | sclk => cases ht; exact h.aDrain
  | panelAck level => cases ht; exact h.with_env _
  | btnRaw levels => cases ht; exact h.with_env _
  | btnValid level => cases ht; exact h.with_env _

/-- Settles O57, by `StateInv.turn`: each agent's turn keeps each part of the invariant. -/
theorem stepKeepsTheInvariant : Obligations.StepKeepsTheInvariant := by
  intro s t h e
  exact h.popEvent.turn (step_eq_next.1 e).2

/-! ### The counters and STICKY (10_state.md R54, R58, R59) -/

/-- What every turn but S_NEXT and TB keeps: the configuration, TICK, TIME, and each STICKY bit that
was set. -/
structure CountersKept (s t : State) : Prop where
  cfg : t.cfg = s.cfg
  tick : t.fts.tick = s.fts.tick
  time : t.sys.time = s.sys.time
  sticky : s.sys.sticky &&& t.sys.sticky = s.sys.sticky

theorem CountersKept.refl (s : State) : CountersKept s s := ⟨rfl, rfl, rfl, BitVec.and_self⟩

/-- A bit vector keeps its bits when others are set (10_state.md R59). -/
theorem sticky_and_or (a b : BitVec 3) : a &&& (a ||| b) = a := by
  ext i
  simp +contextual

theorem sampleInputs_countersKept (s : State) : CountersKept s (sampleInputs s) := by
  refine ⟨sampleInputs_cfg, by rw [sampleInputs_fts], sampleInputs_time, ?_⟩
  rcases sampleInputs_cases s with ⟨_, e⟩ | ⟨_, e⟩ <;> rw [e]
  · exact BitVec.and_self
  · exact sticky_and_or _ _

theorem Effect.countersKept {i : Instr} (h : Effect s i t) : CountersKept s t := by
  cases h with
  | insample =>
    obtain ⟨hcfg, htick, htime, hsticky⟩ := sampleInputs_countersKept s
    exact ⟨hcfg, htick, htime, hsticky⟩
  | cbret v => exact ⟨rfl, (callbackReturned_frame v s.fts).1, rfl, BitVec.and_self⟩
  | answer | draw | swap | holdSwap | holdDwait | dclr | dreset | channel | nothing | mixt | mixd
  | mixw | run | panic => exact ⟨rfl, rfl, rfl, BitVec.and_self⟩

theorem exec_countersKept {i : Instr} (e : exec i s = .next t) : CountersKept s t := by
  rcases exec_cases i s with ⟨_, e'⟩ | ⟨_, _, e'⟩ | ⟨_, _, u, he, e'⟩ <;> cases e.symm.trans e'
  · exact .refl s
  · exact ⟨rfl, rfl, rfl, BitVec.and_self⟩
  · exact he.countersKept

/-- The loop of a production command writes the port and RSP only. -/
theorem CountersKept.loopAnswer {u : State} {left : Word} {j : Job} (h : CountersKept s u)
    (ha : LoopAnswer u left j (.next t)) : CountersKept s t := by
  cases ha <;> exact ⟨h.cfg, h.tick, h.time, h.sticky⟩

theorem made_countersKept (s : State) (v : Sample) (m : Mix) : CountersKept s (s.made v m) :=
  ⟨rfl, rfl, rfl, BitVec.and_self⟩

theorem continueMixt_zero (k : Word) (s : State) : continueMixt k 0 s = mixtLoop k 0 s := rfl

theorem continueMixd_zero (drop : Word) (s : State) :
    continueMixd 0 drop s = mixdLoop 0 drop s := rfl

theorem continueMixw_zero (n : Word) (s : State) : continueMixw n 0 s = mixwLoop n 0 s := rfl

theorem continueMixt_countersKept {k left : Word} (e : continueMixt k left s = .next t) :
    CountersKept s t := by
  by_cases h : left = 0
  · subst h
    have ha := (continueMixt_zero k s).symm.trans e ▸ mixtLoop_answer ..
    exact (CountersKept.refl s).loopAnswer ha
  · rcases continueMixt_cases k h s with ⟨_, e'⟩ | ⟨_, _, e'⟩ | ⟨_, v, m, _, e'⟩
    · cases e.symm.trans e'
    · cases e.symm.trans e'
    · exact (made_countersKept s v m).loopAnswer (e'.symm.trans e ▸ mixtLoop_answer ..)

theorem continueMixd_countersKept {left drop : Word} (e : continueMixd left drop s = .next t) :
    CountersKept s t := by
  by_cases h : left = 0
  · subst h
    have ha := (continueMixd_zero drop s).symm.trans e ▸ mixdLoop_answer ..
    exact (CountersKept.refl s).loopAnswer ha
  · rcases continueMixd_cases drop h s with ⟨_, e'⟩ | ⟨v, m, _, ⟨_, e'⟩ | ⟨_, e'⟩⟩
    · cases e.symm.trans e'
    · have hdropped : CountersKept s (({ s with mix := m } : State).setSticky stickyOverrun) :=
        ⟨rfl, rfl, rfl, sticky_and_or _ _⟩
      exact hdropped.loopAnswer (e'.symm.trans e ▸ mixdLoop_answer ..)
    · exact (made_countersKept s v m).loopAnswer (e'.symm.trans e ▸ mixdLoop_answer ..)

theorem continueMixw_countersKept {n left : Word} (e : continueMixw n left s = .next t) :
    CountersKept s t := by
  by_cases h : left = 0
  · subst h
    have ha := (continueMixw_zero n s).symm.trans e ▸ mixwLoop_answer ..
    exact (CountersKept.refl s).loopAnswer ha
  · rcases continueMixw_cases n h s with ⟨_, e'⟩ | ⟨_, _, e'⟩ | ⟨_, v, m, _, e'⟩
    · cases e.symm.trans e'
      exact .refl s
    · cases e.symm.trans e'
    · exact (made_countersKept s v m).loopAnswer (e'.symm.trans e ▸ mixwLoop_answer ..)

theorem continueJob_countersKept {j : Job} (e : continueJob j s = .next t) :
    CountersKept s t := by
  cases j with
  | swap =>
    rcases continueSwap_cases s with ⟨_, e'⟩ | ⟨_, _, e'⟩ | ⟨_, _, e'⟩ <;>
      cases e.symm.trans e' <;> exact ⟨rfl, rfl, rfl, BitVec.and_self⟩
  | dwait =>
    rcases continueDwait_cases s with ⟨_, e'⟩ | ⟨_, _, e'⟩ | ⟨_, _, e'⟩ <;>
      cases e.symm.trans e' <;> exact ⟨rfl, rfl, rfl, BitVec.and_self⟩
  | mixt k left => exact continueMixt_countersKept e
  | mixd left drop => exact continueMixd_countersKept e
  | mixw n left => exact continueMixw_countersKept e

theorem hostTurn_countersKept (e : hostTurn s = .next t) : CountersKept s t := by
  rcases hostTurn_cases s with
    ⟨_, e'⟩ | ⟨_, j, _, e'⟩ | ⟨_, _, ⟨i, rest, _, e'⟩ | ⟨_, rest, _, e'⟩ | ⟨_, e'⟩⟩
  · cases e.symm.trans e'
    exact ⟨rfl, rfl, rfl, BitVec.and_self⟩
  · exact continueJob_countersKept (e'.symm.trans e)
  · obtain ⟨hcfg, htick, htime, hsticky⟩ := exec_countersKept (e'.symm.trans e)
    exact ⟨hcfg, htick, htime, hsticky⟩
  · cases e.symm.trans e'
    exact ⟨rfl, rfl, rfl, BitVec.and_self⟩
  · cases e.symm.trans e'
    exact .refl s

theorem sSample_countersKept (s : State) : CountersKept s (sSample s) := by
  obtain ⟨hcfg, htick, htime, hsticky⟩ := sampleInputs_countersKept s
  exact ⟨hcfg, htick, htime, hsticky⟩

theorem sTopup_countersKept (e : sTopup s = .next t) : CountersKept s t := by
  rcases sTopup_cases s with ⟨_, e'⟩ | ⟨_, _, e'⟩ | ⟨_, v, m, _, e'⟩ <;>
    cases e.symm.trans e' <;> exact ⟨rfl, rfl, rfl, BitVec.and_self⟩

/-- A turn of SCHED keeps the counters unless it is S_NEXT. -/
theorem schedTurn_countersKept (e : schedTurn s = .next t) :
    CountersKept s t ∨ (s.fts.phase = .waitingForVsync ∧ sNext s = .next t) := by
  rcases schedTurn_cases s with
    e' | ⟨_, _, ⟨_, e'⟩ | ⟨_, _, _, e'⟩ | ⟨_, _, e'⟩ | ⟨hp, _, _, e'⟩⟩
  · cases e.symm.trans e'
    exact .inl (.refl s)
  · cases e.symm.trans e'
    exact .inl (sSample_countersKept s)
  · cases e.symm.trans e'
    exact .inl ⟨rfl, rfl, rfl, BitVec.and_self⟩
  · exact .inl (sTopup_countersKept (e'.symm.trans e))
  · exact .inr ⟨hp, e'.symm.trans e⟩

theorem dBegin_countersKept (s : State) : CountersKept s (dBegin s) := by
  rcases dBegin_cases s with ⟨_, _, e⟩ | ⟨_, e⟩ <;> rw [e] <;>
    exact ⟨rfl, rfl, rfl, BitVec.and_self⟩

theorem dWord_countersKept (e : dWord s = .next t) : CountersKept s t := by
  rcases dWord_cases s with ⟨_, e'⟩ | ⟨_, _, e'⟩ | ⟨_, _, e'⟩ <;>
    cases e.symm.trans e' <;> exact ⟨rfl, rfl, rfl, BitVec.and_self⟩

theorem aDrain_countersKept (s : State) : CountersKept s (aDrain s) := by
  rcases aDrain_cases s with ⟨_, e⟩ | ⟨_, e⟩ <;> rw [e] <;>
    exact ⟨rfl, rfl, rfl, BitVec.and_self⟩

theorem countTimeout_countersKept (s : State) : CountersKept s (countTimeout s) := by
  rcases countTimeout_cases s with ⟨_, e⟩ | ⟨_, _, _, e⟩ | ⟨_, _, _, e⟩ <;> rw [e]
  · exact .refl s
  · exact ⟨rfl, rfl, rfl, BitVec.and_self⟩
  · exact ⟨rfl, rfl, rfl, sticky_and_or _ _⟩

/-- Everything a turn can do to the counters: S_NEXT moves TICK, TB moves TIME, every other turn
keeps them. -/
theorem turn_counters {e : Event} (h : turn e s = .next t) :
    (e ≠ .tb ∧ CountersKept s t) ∨
    (e = .sched ∧ s.fts.phase = .waitingForVsync ∧ sNext s = .next t) ∨
    (e = .tb ∧ tbStep s = .next t) := by
  cases e with
  | host => exact .inl ⟨by decide, hostTurn_countersKept h⟩
  | sched =>
    exact (schedTurn_countersKept h).imp (fun hkept => ⟨by decide, hkept⟩)
      fun hnext => .inl ⟨rfl, hnext⟩
  | tb => exact .inr (.inr ⟨rfl, h⟩)
  | dword => exact .inl ⟨by decide, dWord_countersKept h⟩
  | vsync => cases h; exact .inl ⟨by decide, dBegin_countersKept s⟩
  | sclk => cases h; exact .inl ⟨by decide, aDrain_countersKept s⟩
  | panelAck level => cases h; exact .inl ⟨nofun, rfl, rfl, rfl, BitVec.and_self⟩
  | btnRaw levels => cases h; exact .inl ⟨nofun, rfl, rfl, rfl, BitVec.and_self⟩
  | btnValid level => cases h; exact .inl ⟨nofun, rfl, rfl, rfl, BitVec.and_self⟩

/-- What S_NEXT moves of the counters (44_scheduler.md R246). -/
theorem sNext_counters (e : sNext s = .next t) :
    t.cfg = s.cfg ∧ t.fts.tick.toNat = s.fts.tick.toNat + 1 ∧ t.fts.phase = .sampling ∧
      t.sys = s.sys := by
  rcases sNext_cases s with ⟨hlt, e'⟩ | ⟨_, e'⟩ <;> cases e.symm.trans e'
  exact ⟨rfl, by bv_omega, rfl, rfl⟩

/-- What TB moves of the counters (41_display.md R163). -/
theorem tbStep_counters (e : tbStep s = .next t) :
    t.cfg = s.cfg ∧ t.fts.tick = s.fts.tick ∧ t.sys.time.toNat = s.sys.time.toNat + 1 ∧
      s.sys.sticky &&& t.sys.sticky = s.sys.sticky := by
  rcases tbStep_cases s with ⟨hlt, e'⟩ | ⟨_, e'⟩ <;> cases e.symm.trans e'
  obtain ⟨hcfg, htick, htime, hsticky⟩ :=
    countTimeout_countersKept { s with sys := { s.sys with time := s.sys.time + 1 } }
  refine ⟨hcfg, htick, ?_, hsticky⟩
  rw [htime]
  bv_omega

/-- Settles O52, by `turn_counters`: S_NEXT, TB, or a turn that keeps the counters. -/
theorem countersAdvanceByOneAndStickyStays :
    Obligations.CountersAdvanceByOneAndStickyStays := by
  intro s t e
  rcases turn_counters (step_eq_next.1 e).2 with ⟨hne, h⟩ | ⟨he, hp, h⟩ | ⟨he, h⟩
  · exact ⟨.inl h.tick, fun _ => h.time, fun he => absurd he hne, h.sticky⟩
  · obtain ⟨_, htick, hphase, hsys⟩ := sNext_counters h
    exact ⟨.inr ⟨htick, hp, hphase⟩, fun _ => by rw [hsys]; rfl, fun htb => by simp [he] at htb,
      by rw [hsys]; exact BitVec.and_self⟩
  · obtain ⟨_, htick, htime, hsticky⟩ := tbStep_counters h
    exact ⟨.inl htick, fun hne => absurd he hne, fun _ => htime, hsticky⟩

/-! ### Every execution (00_scope.md R11, 20_memory.md R83) -/

/-- The configuration is fixed for the life of a block (00_scope.md R5). -/
theorem step_cfg (e : step s = .next t) : t.cfg = s.cfg := by
  rcases turn_counters (step_eq_next.1 e).2 with ⟨_, h⟩ | ⟨_, _, h⟩ | ⟨_, h⟩
  · exact h.cfg
  · exact (sNext_counters h).1
  · exact (tbStep_counters h).1

theorem reset_qCount (c : Config) : (State.resetFor c).mix.qCount.toNat = 0 := by
  simp [State.resetFor, Mix.qCount]

theorem mixOk_reset (c : Config) : mixOk c (State.resetFor c).mix := by
  refine ⟨List.length_replicate, fun ch hch => ?_, rfl, ⟨.nil, by simp [State.resetFor]⟩,
    by rw [reset_qCount]; exact Nat.zero_le _, fun k hk => ?_⟩
  · obtain rfl := List.eq_of_mem_replicate hch
    exact ⟨by decide, Nat.zero_le _⟩
  · rw [reset_qCount] at hk
    exact absurd hk (Nat.not_lt_zero k)

theorem inpOk_reset {c : Config} (hc : c.Valid) : inpOk c (State.resetFor c).inp := by
  refine ⟨Nat.two_pow_pos _, List.length_replicate, fun n hn => ?_, BitVec.and_self,
    BitVec.and_self, Nat.two_pow_pos _⟩
  obtain rfl := List.eq_of_mem_replicate hn
  exact hc.dbWin_pos

theorem powerOn_inv {c : Config} (hc : c.Valid) (words : List Word) (order : List Event)
    (levels : Env) : StateInv (powerOn c words order levels) where
  cfg := hc
  fbc := ⟨frameOk_nil c, frameOk_nil c⟩
  dos := dosOk_idle rfl (by simp [powerOn, State.resetFor])
  mix := mixOk_reset c
  inp := inpOk_reset hc
  fts := .inl rfl
  time := le_refl _
  job := trivial

/-- Every state of every execution has its configuration and the invariant. -/
theorem Reachable.cfg_and_inv {c : Config} (hc : c.Valid) (h : Reachable c s) :
    s.cfg = c ∧ StateInv s := by
  induction h with
  | start words order levels => exact ⟨rfl, powerOn_inv hc words order levels⟩
  | next _ e ih =>
    obtain ⟨hcfg, hinv⟩ := ih
    exact ⟨(step_cfg e).trans hcfg, stepKeepsTheInvariant _ _ hinv e⟩

/-- Settles O59: the parts of the invariant, and `invariantStatesNeverFault`, along every
execution. -/
theorem everyExecutionIsSafe : Obligations.EveryExecutionIsSafe := by
  intro c s hc h
  obtain ⟨rfl, hinv⟩ := h.cfg_and_inv hc
  obtain ⟨_, _, _, _, hcount, hwritten⟩ := hinv.mix
  obtain ⟨_, hfault, hbusy, _⟩ := hinv.dos
  exact ⟨rfl, hcount, hwritten, fun hd => (hbusy hd).1, hfault,
    (invariantStatesNeverFault s hinv).1⟩

/-! ### The packed views (10_state.md R62) -/

/-- Two fields side by side, as a number. -/
theorem toNat_append_fields {m n : Nat} (high : BitVec m) (low : BitVec n) :
    (high ++ low).toNat = high.toNat * 2 ^ n + low.toNat := by
  rw [BitVec.toNat_append, ← Nat.shiftLeft_add_eq_or_of_lt low.isLt, Nat.shiftLeft_eq]

theorem status_toNat (s : State) : s.status.toNat =
    s.busy.toNat + 2 * s.dos.dstate.code.toNat + 8 * s.dos.xdone.toNat + 16 * s.dos.fault.toNat +
      32 * s.fbc.front.toNat + 64 * s.dos.dsel.toNat + 128 * s.sys.halted.toNat +
      256 * s.fts.phase.code.toNat + 2048 * s.fts.cbreq.code.toNat := by
  simp only [State.status, toNat_append_fields, BitVec.toNat_ofBool]
  ring

theorem ctrl_toNat (ch : Channel) :
    ch.ctrl.toNat = (kindCode ch.kind).toNat + 8 * ch.active.toNat + 16 * ch.loop.toNat := by
  simp only [Channel.ctrl, toNat_append_fields, BitVec.toNat_ofBool]
  ring

theorem busy_toNat (s : State) : s.busy.toNat = if s.dos.dstate = .idle then 0 else 1 := by
  unfold State.busy
  cases s.dos.dstate <;> rfl

/-- Settles O47: the views as sums of their fields, and each field as the number of its state. -/
theorem packedViewsHoldTheirFields : Obligations.PackedViewsHoldTheirFields := by
  refine ⟨fun s => ?_, fun ch => ?_⟩
  · rw [status_toNat, busy_toNat]
    congr 9
    · cases s.dos.dstate <;> rfl
    · cases s.fts.phase <;> rfl
    · cases s.fts.cbreq <;> rfl
  · rw [ctrl_toNat]
    congr 2
    cases ch.kind with
    | tone tone => cases tone <;> rfl
    | sample => rfl

/-! ### The register map (10_state.md R61) -/

/-- The buttons' and the channels' blocks begin above every other register. -/
theorem reg_fixed {n : Nat} (h : n < 0x40) : s.reg n = s.fixedReg n := by
  unfold State.reg
  rw [if_neg (by omega), if_neg (by omega)]

theorem reg_button {b : Nat} {cnt : BitVec 16} (hb : b < s.cfg.nBtn)
    (h : s.inp.dbCnt[b]? = some cnt) : s.reg (0x40 + b) = some (cnt.setWidth 64) := by
  unfold State.reg
  rw [if_pos (by omega), Nat.add_sub_cancel_left, h]
  rfl

/-- The register at an offset of a channel's block, which no button's number reaches. -/
theorem reg_channel {k off : Nat} {ch : Channel} (hc : s.cfg.Valid)
    (hk : k < s.cfg.nCh) (h : s.mix.chans[k]? = some ch) (hoff : off < 16) :
    s.reg (0x100 + 16 * k + off) = ch.reg off := by
  have hbtn := hc.nBtn_le
  unfold State.reg
  rw [if_neg (by omega), if_pos (by omega), show (0x100 + 16 * k + off - 0x100) / 16 = k by omega,
    show (0x100 + 16 * k + off - 0x100) % 16 = off by omega, h]
  rfl

/-- D_REMAIN as an integer: it is never negative, and fits its word (10_state.md R31). -/
theorem dRemain_setWidth (h : dosOk s.cfg s.fbc.front s.dos) :
    s.dRemain.setWidth 64 =
      BitVec.ofInt 64 ((s.dos.dbytes.toNat : Int) - s.dos.didx.toNat * s.cfg.pixelBytes) := by
  obtain ⟨hremain, _⟩ := h
  have hlt := s.dos.dbytes.isLt
  have hcast : (s.dos.dbytes.toNat : Int) - s.dos.didx.toNat * s.cfg.pixelBytes =
      ((s.dos.dbytes.toNat - s.dos.didx.toNat * s.cfg.pixelBytes : Nat) : Int) := by
    push_cast [hremain]
    rfl
  rw [hcast, BitVec.ofInt_natCast]
  apply BitVec.eq_of_toNat_eq
  rw [State.dRemain, BitVec.toNat_setWidth, BitVec.toNat_ofNat, BitVec.toNat_ofNat]
  omega

theorem fixedReg_isSome {n : Nat} (h : (s.fixedReg n).isSome = true) :
    n ≤ 0x07 ∨ (0x10 ≤ n ∧ n ≤ 0x12) ∨ (0x20 ≤ n ∧ n ≤ 0x23) ∨ (0x30 ≤ n ∧ n ≤ 0x33) := by
  unfold State.fixedReg at h
  split at h
  case h_20 => cases h
  all_goals decide

theorem channelReg_isSome {ch : Channel} {off : Nat} (h : (ch.reg off).isSome = true) :
    off < 8 := by
  unfold Channel.reg at h
  split at h
  case h_9 => cases h
  all_goals decide

/-- Every number that reads is a row of the table. -/
theorem reg_isSome {n : Nat} (h : (s.reg n).isSome = true) :
    n ≤ 0x07 ∨ (0x10 ≤ n ∧ n ≤ 0x12) ∨ (0x20 ≤ n ∧ n ≤ 0x23) ∨ (0x30 ≤ n ∧ n ≤ 0x33) ∨
      (0x40 ≤ n ∧ n < 0x40 + s.cfg.nBtn) ∨
      (0x100 ≤ n ∧ n < 0x100 + 16 * s.cfg.nCh ∧ n % 16 < 8) := by
  unfold State.reg at h
  split at h
  next hbutton => omega
  next =>
    split at h
    next hchannel =>
      have := channelReg_isSome h
      omega
    next =>
      have := fixedReg_isSome h
      omega

/-- Settles O46: the fixed rows, a button's row, a channel's rows, and no other number. -/
theorem registerMapIsTheTable : Obligations.RegisterMapIsTheTable := by
  intro s h
  refine ⟨?_, fun b hb cnt hcnt => reg_button hb hcnt, fun k hk ch hch => ?_,
    fun n => reg_isSome⟩
  · simp only [reg_fixed, Nat.reduceLT, ← dRemain_setWidth h.dos]
    simp only [State.fixedReg, Mix.qCount, and_self]
  · simp only [reg_channel h.cfg hk hch, Nat.reduceLT]
    simp only [Channel.reg, and_self]

end Sys2Proof.Machine
end

section
/-! PROOFS. 20_memory.md: FRONT changes only in a swap from an idle sequencer, and no step writes the
front Frame of a transfer (O24). -/

namespace Sys2Proof.Machine

variable {s t : State}

/-! ### What one step can do to FBC -/

/-- Everything a step can do to FBC: nothing, the Plot calls of a drawing command (40_framebuffer.md
R134), or `DoSwap` where SWAP and S_PRESENT allow it (40_framebuffer.md R132, 44_scheduler.md R243). -/
inductive FbcStep (s t : State) : Prop
  | kept : t.fbc = s.fbc → FbcStep s t
  | drawn (points : List (Int × Int × Word)) : t.fbc = plotAll s.cfg points s.fbc → FbcStep s t
  | swapped : s.dos.dstate = .idle → s.dos.fault = false → t.fbc = (doSwap s).fbc →
      t.dos = (doSwap s).dos → FbcStep s t

/-- The words and the job on the port and the agenda have no part in what happens to FBC. -/
theorem FbcStep.of_port_agenda {p : Port} {a : List Event}
    (h : FbcStep { s with port := p, agenda := a } t) : FbcStep s t := by
  cases h with
  | kept hfbc => exact .kept hfbc
  | drawn points hfbc => exact .drawn points hfbc
  | swapped hidle hfault hfbc hdos => exact .swapped hidle hfault hfbc hdos

/-! ### HOST -/

/-- `Sample()` touches INP and STICKY only (43_input.md R211). -/
@[simp] theorem sampleInputs_fbc : (sampleInputs s).fbc = s.fbc := by
  rcases sampleInputs_cases s with ⟨_, e⟩ | ⟨_, e⟩ <;> simp [e]

theorem Effect.fbcStep {i : Instr} (h : Effect s i t) : FbcStep s t := by
  cases h with
  | draw _ points => exact .drawn points rfl
  | swap _ hidle hfault => exact .swapped hidle hfault rfl rfl
  | insample => exact .kept sampleInputs_fbc
  | answer | holdSwap | holdDwait | dclr | dreset | channel | nothing | mixt | mixd | mixw | run
  | cbret | panic => exact .kept rfl

theorem exec_fbcStep {i : Instr} (e : exec i s = .next t) : FbcStep s t := by
  rcases exec_cases i s with ⟨_, e'⟩ | ⟨_, _, e'⟩ | ⟨_, _, u, he, e'⟩ <;> cases e.symm.trans e'
  · exact .kept rfl
  · exact .kept rfl
  · exact he.fbcStep

/-- The loop of a production command writes the port and RSP only. -/
theorem LoopAnswer.fbc {left : Word} {j : Job} {r : Result} (h : LoopAnswer s left j r)
    (e : r = .next t) : t.fbc = s.fbc := by
  cases h <;> cases e <;> rfl

theorem continueMixt_fbc {k left : Word} (e : continueMixt k left s = .next t) :
    t.fbc = s.fbc := by
  by_cases h : left = 0
  · subst h
    exact (mixtLoop_answer k 0 s).fbc ((continueMixt_zero k s).symm.trans e)
  · rcases continueMixt_cases k h s with ⟨_, e'⟩ | ⟨_, _, e'⟩ | ⟨_, v, m, _, e'⟩
    · cases e.symm.trans e'
    · cases e.symm.trans e'
    · exact (mixtLoop_answer k (left - 1) (s.made v m)).fbc (e'.symm.trans e)

theorem continueMixd_fbc {left drop : Word} (e : continueMixd left drop s = .next t) :
    t.fbc = s.fbc := by
  by_cases h : left = 0
  · subst h
    exact (mixdLoop_answer 0 drop s).fbc ((continueMixd_zero drop s).symm.trans e)
  · rcases continueMixd_cases drop h s with ⟨_, e'⟩ | ⟨v, m, _, ⟨_, e'⟩ | ⟨_, e'⟩⟩
    · cases e.symm.trans e'
    · have hdropped := mixdLoop_answer (left - 1) (drop + 1)
        (({ s with mix := m } : State).setSticky stickyOverrun)
      exact hdropped.fbc (e'.symm.trans e)
    · exact (mixdLoop_answer (left - 1) drop (s.made v m)).fbc (e'.symm.trans e)

theorem continueMixw_fbc {n left : Word} (e : continueMixw n left s = .next t) :
    t.fbc = s.fbc := by
  by_cases h : left = 0
  · subst h
    exact (mixwLoop_answer n 0 s).fbc ((continueMixw_zero n s).symm.trans e)
  · rcases continueMixw_cases n h s with ⟨_, e'⟩ | ⟨_, _, e'⟩ | ⟨_, v, m, _, e'⟩
    · cases e.symm.trans e'
      rfl
    · cases e.symm.trans e'
    · exact (mixwLoop_answer n (left - 1) (s.made v m)).fbc (e'.symm.trans e)

/-- Of the commands under way only a held SWAP moves FBC, once the sequencer is idle
(40_framebuffer.md R132). -/
theorem continueJob_fbcStep {j : Job} (e : continueJob j s = .next t) : FbcStep s t := by
  cases j with
  | swap =>
    rcases continueSwap_cases s with ⟨_, e'⟩ | ⟨_, _, e'⟩ | ⟨hidle, hfault, e'⟩ <;>
      cases e.symm.trans e'
    · exact .kept rfl
    · exact .kept rfl
    · exact .swapped hidle hfault rfl rfl
  | dwait =>
    rcases continueDwait_cases s with ⟨_, e'⟩ | ⟨_, _, e'⟩ | ⟨_, _, e'⟩ <;>
      cases e.symm.trans e' <;> exact .kept rfl
  | mixt k left => exact .kept (continueMixt_fbc e)
  | mixd left drop => exact .kept (continueMixd_fbc e)
  | mixw n left => exact .kept (continueMixw_fbc e)

theorem hostTurn_fbcStep (e : hostTurn s = .next t) : FbcStep s t := by
  rcases hostTurn_cases s with
    ⟨_, e'⟩ | ⟨_, j, _, e'⟩ | ⟨_, _, ⟨i, rest, _, e'⟩ | ⟨_, rest, _, e'⟩ | ⟨_, e'⟩⟩
  · cases e.symm.trans e'
    exact .kept rfl
  · exact continueJob_fbcStep (e'.symm.trans e)
  · exact (exec_fbcStep (e'.symm.trans e)).of_port_agenda
  · cases e.symm.trans e'
    exact .kept rfl
  · cases e.symm.trans e'
    exact .kept rfl

/-! ### SCHED, DMAD and the timebase -/

theorem sTopup_fbc (e : sTopup s = .next t) : t.fbc = s.fbc := by
  rcases sTopup_cases s with ⟨_, e'⟩ | ⟨_, _, e'⟩ | ⟨_, v, m, _, e'⟩ <;>
    cases e.symm.trans e' <;> rfl

theorem sNext_fbc (e : sNext s = .next t) : t.fbc = s.fbc := by
  rcases sNext_cases s with ⟨_, e'⟩ | ⟨_, e'⟩ <;> cases e.symm.trans e'
  rfl

/-- Of the scheduler's steps only S_PRESENT moves FBC (44_scheduler.md R243). -/
theorem schedTurn_fbcStep (e : schedTurn s = .next t) : FbcStep s t := by
  rcases schedTurn_cases s with
    e' | ⟨_, _, ⟨_, e'⟩ | ⟨_, hidle, hfault, e'⟩ | ⟨_, _, e'⟩ | ⟨_, _, _, e'⟩⟩
  · cases e.symm.trans e'
    exact .kept rfl
  · cases e.symm.trans e'
    exact .kept sampleInputs_fbc
  · cases e.symm.trans e'
    exact .swapped hidle hfault rfl rfl
  · exact .kept (sTopup_fbc (e'.symm.trans e))
  · exact .kept (sNext_fbc (e'.symm.trans e))

@[simp] theorem dBegin_fbc : (dBegin s).fbc = s.fbc := by
  rcases dBegin_cases s with ⟨_, _, e⟩ | ⟨_, e⟩ <;> simp [e]

theorem dWord_fbc (e : dWord s = .next t) : t.fbc = s.fbc := by
  rcases dWord_cases s with ⟨_, e'⟩ | ⟨_, _, e'⟩ | ⟨_, _, e'⟩ <;>
    cases e.symm.trans e' <;> rfl

@[simp] theorem aDrain_fbc : (aDrain s).fbc = s.fbc := by
  rcases aDrain_cases s with ⟨_, e⟩ | ⟨_, e⟩ <;> simp [e]

@[simp] theorem countTimeout_fbc : (countTimeout s).fbc = s.fbc := by
  rcases countTimeout_cases s with ⟨_, e⟩ | ⟨_, _, _, e⟩ | ⟨_, _, _, e⟩ <;> simp [e]

theorem tbStep_fbc (e : tbStep s = .next t) : t.fbc = s.fbc := by
  rcases tbStep_cases s with ⟨_, e'⟩ | ⟨_, e'⟩ <;> cases e.symm.trans e'
  exact countTimeout_fbc

/-! ### The roles of the Frames (20_memory.md R85, 40_framebuffer.md R133) -/

/-- Only HOST and SCHED move FBC: the transfer engine reads the Frames, ENV and the consumer do not
reach them. -/
theorem turn_fbcStep {e : Event} (h : turn e s = .next t) : FbcStep s t := by
  cases e with
  | host => exact hostTurn_fbcStep h
  | sched => exact schedTurn_fbcStep h
  | dword => exact .kept (dWord_fbc h)
  | tb => exact .kept (tbStep_fbc h)
  | vsync => cases h; exact .kept dBegin_fbc
  | sclk => cases h; exact .kept aDrain_fbc
  | panelAck level => cases h; exact .kept rfl
  | btnRaw levels => cases h; exact .kept rfl
  | btnValid level => cases h; exact .kept rfl

theorem step_fbcStep (e : step s = .next t) : FbcStep s t :=
  (turn_fbcStep (step_eq_next.1 e).2).of_port_agenda

/-- Under a pending transfer there is no swap, and Plot goes to the back Frame. -/
theorem FbcStep.front_kept_of_busy (h : FbcStep s t) (hbusy : s.dos.dstate ≠ .idle) :
    t.fbc.front = s.fbc.front ∧ t.fbc.frame s.fbc.front = s.fbc.frame s.fbc.front := by
  cases h with
  | kept hfbc => rw [hfbc]; exact ⟨rfl, rfl⟩
  | drawn points hfbc => rw [hfbc]; exact ⟨plotAll_front .., plotAll_frame_front ..⟩
  | swapped hidle => exact absurd hidle hbusy

/-- Plot keeps FRONT, so a step that changes it is a swap. -/
theorem FbcStep.swapped_of_front_ne (h : FbcStep s t) (hne : t.fbc.front ≠ s.fbc.front) :
    s.dos.dstate = .idle ∧ s.dos.fault = false ∧ t.fbc = (doSwap s).fbc ∧
      t.dos = (doSwap s).dos := by
  cases h with
  | kept hfbc => exact absurd (by rw [hfbc]) hne
  | drawn points hfbc => exact absurd (by rw [hfbc, plotAll_front]) hne
  | swapped hidle hfault hfbc hdos => exact ⟨hidle, hfault, hfbc, hdos⟩

/-- Settles O24, by `step_fbcStep`: a busy sequencer leaves only Plot, which spares the front Frame,
and `DoSwap` writes no pixel. -/
theorem rolesChangeOnlyInASwap : Obligations.RolesChangeOnlyInASwap := by
  intro s t e
  have h := step_fbcStep e
  refine ⟨h.front_kept_of_busy, fun hne => ?_⟩
  obtain ⟨hidle, hfault, hfbc, hdos⟩ := h.swapped_of_front_ne hne
  rw [hfbc, hdos]
  exact ⟨hidle, hfault, doSwap_dstate s, rfl, doSwap_fb0 s, doSwap_fb1 s⟩

end Sys2Proof.Machine
end

section
/-! PROOFS. 30_encoding.md: decoding inverts encoding (O1) and encoding inverts decoding (O2), a reserved
encoding is `Illegal` (O4), and so is an operand out of range (O6). -/

namespace Sys2Proof

/-! ### What the decoder answers on a header -/

/-- The decoder answers a command exactly when the header selects a row it matches and the operand words
that row asks for have been written and make the command. -/
theorem decode_eq_command_iff {h : Word} {after rest : List Word} {i : Instr} :
    decode (h :: after) = .command i rest ↔
      ∃ op n, Opcode.ofNumber (opcField h) = some op ∧ operandCount op.format h after = some n ∧
        n ≤ after.length ∧ h &&& op.format.mask = op.matchWord ∧
        assemble op h (after.take n) = some i ∧ rest = after.drop n := by
  constructor
  · intro hd
    simp only [decode] at hd
    split at hd
    · cases hd
    next op hop =>
      split at hd
      · cases hd
      next n hn =>
        split at hd
        · cases hd
        next hlen =>
          split at hd
          · cases hd
          next hmatch =>
            split at hd
            next j hj =>
              cases hd
              exact ⟨op, n, hop, hn, not_lt.1 hlen, not_not.1 hmatch, hj, rfl⟩
            · cases hd
  · rintro ⟨op, n, hop, hn, hlen, hmatch, hi, rfl⟩
    simp [decode, hop, hn, hmatch, hi, not_lt.2 hlen]

/-- A reserved opcode is a one-word command (30_encoding.md R116). -/
theorem decode_reservedOpcode {h : Word} {after : List Word}
    (hop : Opcode.ofNumber (opcField h) = none) :
    decode (h :: after) = .illegal (.reservedOpcode (opcField h)) after := by
  simp [decode, hop]

/-- A header that does not match its row is judged after its operand words (30_encoding.md R117). -/
theorem decode_reservedField {h : Word} {after : List Word} {op : Opcode} {n : Nat}
    (hop : Opcode.ofNumber (opcField h) = some op)
    (hn : operandCount op.format h after = some n) (hlen : n ≤ after.length)
    (hmatch : h &&& op.format.mask ≠ op.matchWord) :
    decode (h :: after) = .illegal (.reservedField (opcField h)) (after.drop n) := by
  simp [decode, hop, hn, hmatch, not_lt.2 hlen]

/-! ### From a command to its words and back -/

/-- The header of every command has the reserved fields of its row at 0 (30_encoding.md R121). -/
theorem headerMatchesRow (i : Instr) : Laws.HeaderMatchesRow.Statement i := by
  apply Laws.headerMatchesRow_of_fields
  cases i with
  | back | swap | dcomp | dwait | dtry | dclr | dreset | mixt | insample | run | panic
  | pset | line | rect | blit | cbret => exact ⟨rfl, rfl⟩
  | mixd | mixw | rdreg | text | chfreq | chpos | chstart | chstop | chtable => rfl
  | chwave | chvol | chloop => trivial

/-- The length of a TEXT survives its 16-bit field (30_encoding.md R111). -/
theorem immBits_text_toNat {x y : Half} {colour : Word} {chars : List CharCode}
    (hwf : (Instr.text x y colour chars).wellFormed = true) :
    (Instr.text x y colour chars).immBits.toNat = chars.length := by
  have hlen : chars.length < 2 ^ 16 := by simpa [Instr.wellFormed] using hwf
  simpa [Instr.immBits] using Nat.mod_eq_of_lt hlen

/-- The header of a well-formed command asks for as many operand words as the command has (30_encoding.md
R102). -/
theorem operandCount_encode {i : Instr} (hwf : i.wellFormed = true) (rest : List Word) :
    operandCount i.opcode.format (header i.opcode.number i.aBits i.immBits)
      (i.operandWords ++ rest) = some i.operandWords.length := by
  cases i with
  | blit x y w h data =>
    have hlen : data.length = w.toNat * h.toNat := by simpa [Instr.wellFormed] using hwf
    simp [Instr.opcode, Opcode.format, Instr.operandWords, operandCount, hlen,
      Nat.add_comm 2]
  | text x y colour chars =>
    simp [Instr.opcode, Opcode.format, Instr.operandWords, operandCount, packChars_length,
      immBits_text_toNat hwf, Nat.add_comm 2]
  | _ => rfl

/-- Header and operand words of a well-formed command make that command again. -/
theorem assemble_encode {i : Instr} (hwf : i.wellFormed = true) :
    assemble i.opcode (header i.opcode.number i.aBits i.immBits) i.operandWords = some i := by
  cases i with
  | text x y colour chars =>
    simp [Instr.opcode, Instr.operandWords, assemble, immBits_text_toNat hwf, unpackChars_packChars]
  | _ => simp [Instr.opcode, Instr.aBits, Instr.immBits, Instr.operandWords, assemble]

/-- Settles O1: the header matches its row, the row asks for the operand words that are there, and they
make the command. -/
theorem decodeEncodeRoundTrip : Obligations.DecodeEncodeRoundTrip := by
  intro i rest hwf
  obtain ⟨_, _, e, hopc, hmatch⟩ := headerMatchesRow i
  cases e
  have hwords : encode i ++ rest =
      header i.opcode.number i.aBits i.immBits :: (i.operandWords ++ rest) := rfl
  rw [hwords]
  refine decode_eq_command_iff.2 ⟨i.opcode, i.operandWords.length, ?_, operandCount_encode hwf rest,
    by simp, hmatch, ?_, by simp⟩
  · rw [hopc, Opcode.ofNumber_number]
  · rw [List.take_left, assemble_encode hwf]

/-! ### From words to a command and back -/

/-- What the decoder owes to the words it took: the command is well formed and keeps both header fields,
the number of its operand words and, TEXT aside (30_encoding.md R118), the operand words. -/
structure ReadFrom (op : Opcode) (h : Word) (ops : List Word) (i : Instr) : Prop where
  opcode : i.opcode = op
  wellFormed : i.wellFormed = true
  aBits : i.aBits = aField h
  immBits : i.immBits = lowHalf h
  length : i.operandWords.length = ops.length
  words : (∀ x y colour chars, i ≠ .text x y colour chars) → i.operandWords = ops

/-- A command that keeps the operand words themselves keeps their number. -/
theorem ReadFrom.of_words {op : Opcode} {h : Word} {ops : List Word} {i : Instr}
    (hop : i.opcode = op) (hwf : i.wellFormed = true) (ha : i.aBits = aField h)
    (himm : i.immBits = lowHalf h) (hops : i.operandWords = ops) : ReadFrom op h ops i :=
  ⟨hop, hwf, ha, himm, congrArg List.length hops, fun _ => hops⟩

/-- A TEXT takes as many codes as its header says from the words it was given (30_encoding.md R111). -/
theorem ReadFrom.text {h : Word} (p colour : Word) {cs : List Word} (ha : aField h = 0)
    (hcs : cs.length = ((lowHalf h).toNat + 3) / 4) :
    ReadFrom .text h (p :: colour :: cs)
      (.text (lowHalf p) (highHalf p) colour (unpackChars (lowHalf h).toNat cs)) := by
  have hlen : (unpackChars (lowHalf h).toNat cs).length = (lowHalf h).toNat := by
    rw [unpackChars_length]
    omega
  exact
    { opcode := rfl
      wellFormed := by simpa [Instr.wellFormed, hlen] using (lowHalf h).isLt
      aBits := ha.symm
      immBits := by simp [Instr.immBits, hlen]
      length := by simp [Instr.operandWords, packChars_length, hlen, hcs]
      words := fun hne => absurd rfl (hne _ _ _ _) }

/-- A BLIT takes its w × h data words (30_encoding.md R110). -/
theorem ReadFrom.blit {h : Word} (p size : Word) {data : List Word} (ha : aField h = 0)
    (himm : lowHalf h = 0) (hdata : data.length = (lowHalf size).toNat * (highHalf size).toNat) :
    ReadFrom .blit h (p :: size :: data)
      (.blit (lowHalf p) (highHalf p) (lowHalf size) (highHalf size) data) :=
  .of_words rfl (by simpa [Instr.wellFormed] using hdata) ha.symm himm.symm
    (by simp [Instr.operandWords])

/-- A word list of at least two words has a first and a second word. -/
theorem exists_two_cons {ws : List Word} {k : Nat} (h : ws.length = 2 + k) :
    ∃ p q cs, ws = p :: q :: cs ∧ cs.length = k := by
  match ws, h with
  | p :: q :: cs, h => exact ⟨p, q, cs, rfl, by simp at h; omega⟩
  | [], h => simp at h; omega
  | [_], h => simp at h; omega

/-- A matched header and the operand words its row asks for are read faithfully. -/
theorem readFrom_of_assemble {op : Opcode} {h : Word} {after : List Word} {n : Nat} {i : Instr}
    (hn : operandCount op.format h after = some n) (hlen : n ≤ after.length)
    (hmatch : h &&& op.format.mask = op.matchWord)
    (hi : assemble op h (after.take n) = some i) : ReadFrom op h (after.take n) i := by
  have taken : (after.take n).length = n := List.length_take_of_le hlen
  obtain ⟨-, hfields⟩ := (matched_header op h).1 hmatch
  cases op with
  | back | swap | dcomp | dwait | dtry | dclr | dreset | mixt | insample | run | panic =>
    cases hn; cases hi
    exact .of_words rfl rfl hfields.1.symm hfields.2.symm rfl
  | mixd | mixw | rdreg =>
    cases hn; cases hi
    exact .of_words rfl rfl hfields.symm rfl rfl
  | chwave | chvol | chloop =>
    cases hn; cases hi
    exact .of_words rfl rfl rfl rfl rfl
  | chstart | chstop =>
    cases hn; cases hi
    exact .of_words rfl rfl rfl hfields.symm rfl
  | chfreq | chpos =>
    cases hn
    obtain ⟨v, e⟩ := List.length_eq_one_iff.1 taken
    rw [e] at hi ⊢
    cases hi
    exact .of_words rfl rfl rfl hfields.symm rfl
  | cbret =>
    cases hn
    obtain ⟨v, e⟩ := List.length_eq_one_iff.1 taken
    rw [e] at hi ⊢
    cases hi
    exact .of_words rfl rfl hfields.1.symm hfields.2.symm rfl
  | chtable =>
    cases hn
    obtain ⟨base, len, e⟩ := List.length_eq_two.1 taken
    rw [e] at hi ⊢
    cases hi
    exact .of_words rfl rfl rfl hfields.symm rfl
  | pset =>
    cases hn
    obtain ⟨p, colour, e⟩ := List.length_eq_two.1 taken
    rw [e] at hi ⊢
    cases hi
    exact .of_words rfl rfl hfields.1.symm hfields.2.symm (by simp [Instr.operandWords])
  | line | rect =>
    cases hn
    obtain ⟨p, q, colour, e⟩ := List.length_eq_three.1 taken
    rw [e] at hi ⊢
    cases hi
    exact .of_words rfl rfl hfields.1.symm hfields.2.symm (by simp [Instr.operandWords])
  | blit =>
    match after, hn with
    | p :: size :: more, hn =>
      obtain rfl := Option.some.inj hn
      rw [Nat.add_comm 2, List.take_succ_cons, List.take_succ_cons] at hi taken ⊢
      cases hi
      exact .blit p size hfields.1 hfields.2 (by simpa using taken)
  | text =>
    obtain rfl := Option.some.inj hn
    obtain ⟨p, colour, cs, e, hcs⟩ := exists_two_cons taken
    rw [e] at hi ⊢
    cases hi
    exact .text p colour hfields hcs

/-- The header of a command read from `h` is `h`. -/
theorem ReadFrom.header_eq {op : Opcode} {h : Word} {ops : List Word} {i : Instr}
    (hr : ReadFrom op h ops i) (hop : Opcode.ofNumber (opcField h) = some op) :
    header i.opcode.number i.aBits i.immBits = h := by
  rw [hr.opcode, hr.aBits, hr.immBits, Opcode.number_of_ofNumber hop, header_fields]

/-- Settles O2, by `readFrom_of_assemble` on the words the decoder took. -/
theorem decodedCommandReencodes : Obligations.DecodedCommandReencodes := by
  intro h after i rest hd
  obtain ⟨op, n, hop, hn, hlen, hmatch, hi, rfl⟩ := decode_eq_command_iff.1 hd
  have hr := readFrom_of_assemble hn hlen hmatch hi
  have hhead := hr.header_eq hop
  have hcount : i.operandWords.length = n := hr.length.trans (List.length_take_of_le hlen)
  rw [hcount]
  refine ⟨hr.wellFormed, congrArg some hhead, hlen, rfl, fun hne => ?_⟩
  rw [encode, hhead, hr.words hne]

/-! ### Reserved encodings -/

/-- The reserved opcode space (30_encoding.md R116). -/
theorem ofNumber_eq_none_iff (n : BitVec 8) : Opcode.ofNumber n = none ↔
    (n.toNat = 0x00 ∨ (0x08 ≤ n.toNat ∧ n.toNat ≤ 0x0F) ∨ (0x15 ≤ n.toNat ∧ n.toNat ≤ 0x1F) ∨
      (0x2B ≤ n.toNat ∧ n.toNat ≤ 0x2F) ∨ (0x31 ≤ n.toNat ∧ n.toNat ≤ 0x3F) ∨
      (0x43 ≤ n.toNat ∧ n.toNat ≤ 0x4F) ∨ 0x51 ≤ n.toNat) := by
  revert n
  decide

/-- A header whose reserved field is not 0 does not match its row (30_encoding.md R117 case 2). -/
theorem not_matched_of_reserved {op : Opcode} {h : Word}
    (hbad : (op.format ∈ [Format.z, .i, .p, .l, .r, .b, .t, .v] ∧ aField h ≠ 0) ∨
      (op.format ∈ [Format.z, .cZero, .cw1, .cw2, .p, .l, .r, .b, .v] ∧ lowHalf h ≠ 0)) :
    h &&& op.format.mask ≠ op.matchWord := by
  intro hmatch
  obtain ⟨-, hfields⟩ := (matched_header op h).1 hmatch
  generalize op.format = f at hbad hfields
  cases f with
  | z | p | l | r | b | v =>
    rcases hbad with ⟨-, ha⟩ | ⟨-, himm⟩
    · exact ha hfields.1
    · exact himm hfields.2
  | i | t =>
    rcases hbad with ⟨-, ha⟩ | ⟨hf, -⟩
    · exact ha hfields
    · simp at hf
  | cZero | cw1 | cw2 =>
    rcases hbad with ⟨hf, -⟩ | ⟨-, himm⟩
    · simp at hf
    · exact himm hfields
  | c => simp at hbad

namespace Machine

/-- With an empty agenda a turn leaves the agenda as it is (log 2). -/
theorem popEvent_of_nil {s : State} (h : s.agenda = []) : popEvent s = s := by
  rw [popEvent, h, List.tail_nil, ← h]

/-- What the decoder rejects is answered (`Illegal`, 0) and only its words are taken. -/
theorem step_of_decode_illegal {s : State} {why : Rejection} {rest : List Word} (hc : s.cfg.Valid)
    (ha : s.agenda = []) (hh : s.sys.halted = false) (hj : s.port.job = none)
    (hd : decode s.port.cmd = .illegal why rest) :
    step s = .next ((s.setCmd rest).respond .illegal 0) := by
  calc step s = hostTurn s := by
        rw [step_valid hc, nextEvent_eq_host (.inl ha), popEvent_of_nil ha]; rfl
    _ = _ := by simp [hostTurn, issueCommand, raise, hh, hj, hd]

/-- Settles O4: both clauses are what the decoder rejects. -/
theorem reservedEncodingsAreIllegal : Obligations.ReservedEncodingsAreIllegal := by
  refine ⟨ofNumber_eq_none_iff, fun s h after hc ha hh hj hcmd => ⟨fun hop => ?_, ?_⟩⟩
  · exact step_of_decode_illegal hc ha hh hj (hcmd ▸ decode_reservedOpcode hop)
  · intro op n hop hn hlen hbad
    exact step_of_decode_illegal hc ha hh hj
      (hcmd ▸ decode_reservedField hop hn hlen (not_matched_of_reserved hbad))

/-! ### Operands out of range -/

/-- A command of a channel format with a channel number out of range (30_encoding.md R117 case 3). -/
theorem exec_channel_out_of_range {i : Instr} {s : State} (hh : s.sys.halted = false)
    (hf : i.opcode.format ∈ [Format.c, .cZero, .cw1, .cw2]) (hch : s.cfg.nCh ≤ i.aBits.toNat) :
    exec i s = .next (s.respond .illegal 0) := by
  apply exec_illegal hh
  cases i with
  | chwave ch _ | chvol ch _ | chloop ch _ | chtable ch _ _
  | chfreq ch _ | chpos ch _ | chstart ch | chstop ch =>
    have hch : ¬ ch.toNat < s.cfg.nCh := not_lt.2 hch
    simp [legal, hch]
  | _ => simp [Instr.opcode, Opcode.format] at hf

/-- Settles O6: each operand out of range makes the command not legal. -/
theorem outOfRangeOperandIsIllegal : Obligations.OutOfRangeOperandIsIllegal := by
  intro s hh
  refine ⟨fun ch hch k v w => ?_, fun ch k hk => ?_, fun ch v hv => ?_, fun ch f hf => ?_,
    fun ch b l hbl => ?_, fun n hn => ?_⟩
  · have channel {i : Instr} (hf : i.opcode.format ∈ [Format.c, .cZero, .cw1, .cw2])
        (hi : i.aBits = ch) : exec i s = .next (s.respond .illegal 0) :=
      exec_channel_out_of_range hh hf (hi ▸ hch)
    refine ⟨channel ?_ rfl, channel ?_ rfl, channel ?_ rfl, channel ?_ rfl, channel ?_ rfl,
      channel ?_ rfl, channel ?_ rfl, channel ?_ rfl⟩ <;> simp [Instr.opcode, Opcode.format]
  · exact exec_illegal hh (by simp [legal, hk])
  · exact exec_illegal hh (by simp [legal, hv])
  · exact exec_illegal hh (by simp [legal, hf])
  · exact exec_illegal hh (by simp [legal, hbl])
  · exact exec_illegal hh (by simp [legal, hn])

end Machine

end Sys2Proof
end

section
/-! PROOFS. 40_framebuffer.md: BACK (O9), SWAP (O10, O11) and its hold (O12), Plot and what a
sequence of Plot calls leaves (O13, O14), the drawing commands (O15), and the default line (O16). -/

namespace Sys2Proof.Machine

/-! ### BACK and SWAP -/

/-- The back index by the value of FRONT (40_framebuffer.md R131). -/
theorem backVal_eq (s : State) : s.backVal = if s.fbc.front then 0 else 1 := by
  unfold State.backVal Fbc.back
  cases s.fbc.front <;> rfl

/-- After a swap the back Frame is the one that was in front (40_framebuffer.md R132). -/
theorem doSwap_backVal (s : State) : (doSwap s).backVal = if s.fbc.front then 1 else 0 := by
  rw [backVal_eq, doSwap_front]
  cases s.fbc.front <;> rfl

/-- Settles O9: BACK is legal in every phase, and its rule answers `backVal`. -/
theorem backAnswersTheBackIndex : Obligations.BackAnswersTheBackIndex := by
  refine ⟨by decide, fun s hh => ?_⟩
  calc exec .back s = done s.backVal s := command_legal hh rfl
    _ = .next (s.respond .ok (if s.fbc.front then 0 else 1)) := by rw [backVal_eq]; rfl

/-- Where SWAP is legal it follows its own rule (40_framebuffer.md R132). -/
theorem exec_swap {s : State} (hh : s.sys.halted = false) (hp : s.fts.phase = .idle) :
    exec .swap s =
      if s.dos.fault then raise .hardwareFault 0 s
      else if s.dos.dstate = .idle then swapAndAnswer s
      else if s.cfg.swapBlock then .next (s.setJob (some .swap))
      else raise .notReady 0 s := by
  have hl : legal .swap s = true := by simp [legal, hp]
  simp only [exec, execSwap, command_legal hh hl]

/-- `DoSwap()` field by field: of FBC it writes FRONT alone, of DOS all but FAULT (40_framebuffer.md
R132). -/
theorem doSwap_eq (s : State) :
    doSwap s =
      { s with
        fbc := { fb0 := s.fbc.fb0, fb1 := s.fbc.fb1, front := !s.fbc.front }
        dos := { dstate := .armed, xdone := false, fault := s.dos.fault, dsel := !s.fbc.front,
                 dbytes := BitVec.ofNat 32 (s.cfg.fbW * s.cfg.fbH * s.cfg.pixelBytes),
                 didx := 0, tmoCnt := 0 } } := rfl

/-- Settles O10: the third branch of the rule, with `DoSwap()` written out. -/
theorem swapExchangesTheRoles : Obligations.SwapExchangesTheRoles := by
  intro s hh hp hf hd
  calc exec .swap s = .next ((doSwap s).respond .ok (doSwap s).backVal) := by
        rw [exec_swap hh hp, hf, if_neg Bool.false_ne_true, if_pos hd]
        rfl
    _ = _ := by rw [doSwap_backVal, doSwap_eq, hf]

/-- Settles O11: the other three branches of the rule, in its order. -/
theorem swapIsTurnedAwayOrHolds : Obligations.SwapIsTurnedAwayOrHolds := by
  intro s hh hp
  rw [exec_swap hh hp]
  refine ⟨fun hf => ?_, fun hf hd hb => ?_, fun hf hd hb => ?_⟩
  · rw [if_pos hf]
    rfl
  · rw [hf, if_neg Bool.false_ne_true, if_neg hd, hb]
    rfl
  · rw [hf, if_neg Bool.false_ne_true, if_neg hd, if_pos hb]
    rfl

/-! ### The hold of SWAP and DWAIT -/

/-- A turn of HOST with a command under way goes on with it. -/
theorem turn_host_of_job {s : State} {j : Job} (hh : s.sys.halted = false)
    (hj : s.port.job = some j) : turn .host s = continueJob j s := by
  simp [turn, hostTurn, hh, hj]

/-- A hold is not lifted before DSTATE = IDLE (40_framebuffer.md R132, 41_display.md R152). -/
theorem continueJob_of_busy {s : State} {j : Job} (hj : j = .swap ∨ j = .dwait)
    (hd : s.dos.dstate ≠ .idle) : continueJob j s = .next s := by
  rcases hj with rfl | rfl <;> exact if_neg hd

/-- A hold lifted with FAULT = 1 ends in `HardwareFault` (40_framebuffer.md R132, 41_display.md
R152). -/
theorem continueJob_of_fault {s : State} {j : Job} (hj : j = .swap ∨ j = .dwait)
    (hd : s.dos.dstate = .idle) (hf : s.dos.fault = true) :
    continueJob j s = .next ((s.setJob none).respond .hardwareFault 0) := by
  rcases hj with rfl | rfl <;> exact (if_pos hd).trans (if_pos hf)

/-- Settles O12: a turn of HOST is the step of the held command, whose rule has these four branches.
-/
theorem heldSwapAndDwaitGoOnWhenIdle : Obligations.HeldSwapAndDwaitGoOnWhenIdle := by
  intro s hh
  refine ⟨fun hjob => ?_, fun hj hd hf => ?_, fun hj hd hf => ?_⟩
  · obtain ⟨j, hj, hheld⟩ : ∃ j, s.port.job = some j ∧ (j = .swap ∨ j = .dwait) := by
      rcases hjob with hj | hj
      · exact ⟨_, hj, .inl rfl⟩
      · exact ⟨_, hj, .inr rfl⟩
    rw [turn_host_of_job hh hj]
    exact ⟨continueJob_of_busy hheld, continueJob_of_fault hheld⟩
  · calc turn .host s = swapAndAnswer (s.setJob none) := by
          rw [turn_host_of_job hh hj]
          exact (if_pos hd).trans (by rw [hf]; rfl)
      _ = _ := by rw [swapAndAnswer, doSwap_backVal]; rfl
  · rw [turn_host_of_job hh hj]
    exact (if_pos hd).trans (by rw [hf]; rfl)

/-! ### Plot -/

/-- Settles O13: the back Frame by `plot_read_back`, the front Frame by `plot_frame_front`. -/
theorem plotWritesOneClippedBackPixel : Obligations.PlotWritesOneClippedBackPixel := by
  intro c f x y colour k i
  refine ⟨?_, plot_front c f x y colour⟩
  by_cases hk : k = !f.front
  · subst hk
    calc ((plot c f x y colour).frame f.back).read i
        = if pixelIndex c x y = some i then some (c.pixel colour) else (f.frame f.back).read i :=
          plot_read_back c f x y colour i
      _ = _ := by
        simp only [pixelIndex_eq_some, and_assoc, true_and]
        rfl
  · obtain rfl : k = f.front := by simpa using hk
    rw [plot_frame_front, if_neg fun h => hk h.1]

/-! ### Sequences of Plot calls -/

/-- The first of several Plot calls counts where none of the later ones reaches. -/
theorem lastInk_cons (c : Config) (p : Int × Int × Word) (ps : List (Int × Int × Word)) (i : Nat) :
    lastInk c (p :: ps) i = (lastInk c ps i).or
      (if pixelIndex c p.1 p.2.1 = some i then some (c.pixel p.2.2) else none) := by
  simp only [lastInk, List.reverse_cons, List.find?_append, List.find?_singleton, beq_iff_eq,
    Option.map_or]
  split <;> rfl

/-- An element of the back Frame reads as the last Plot call that reached it left it, else as
before. -/
theorem plotAll_read_back (c : Config) (f : Fbc) (ps : List (Int × Int × Word)) (i : Nat) :
    ((plotAll c ps f).frame f.back).read i = (lastInk c ps i).or ((f.frame f.back).read i) := by
  induction ps generalizing f with
  | nil => rfl
  | cons p ps ih =>
    have hback : (plot c f p.1 p.2.1 p.2.2).back = f.back := by
      rw [Fbc.back, plot_front, Fbc.back]
    have hps := ih (plot c f p.1 p.2.1 p.2.2)
    rw [hback, plot_read_back] at hps
    rw [plotAll_cons, hps, lastInk_cons, Option.or_assoc]
    split <;> rfl

/-- Settles O14: the back Frame by `plotAll_read_back`; no Plot call touches the rest. -/
theorem drawnPixelsReadBack : Obligations.DrawnPixelsReadBack := by
  intro c f points
  refine ⟨fun i => ?_, plotAll_frame_front c points f, plotAll_front c points f⟩
  calc ((plotAll c points f).frame (!f.front)).read i
      = (lastInk c points i).or ((f.frame f.back).read i) := plotAll_read_back c f points i
    _ = _ := by cases lastInk c points i <;> rfl

/-! ### The drawing commands -/

/-- The characters of a TEXT with their places: the pen of the character at place `k` stands at
x + k × GLYPH_W (40_framebuffer.md R140). The text begins at place `k₀`, its pen at
x + k₀ × GLYPH_W. -/
theorem textPoints_eq_zipIdx (c : Config) (x y : Int) (colour : Word) (chars : List CharCode)
    (k₀ : Nat) :
    textPoints c (x + k₀ * c.glyphW) y colour chars =
      (chars.zipIdx k₀).flatMap fun (e : CharCode × Nat) =>
        (c.glyph e.1).map fun (p : Nat × Nat) =>
          (x + (e.2 : Int) * (c.glyphW : Int) + (p.1 : Int), y + (p.2 : Int), colour) := by
  induction chars generalizing k₀ with
  | nil => rfl
  | cons ch rest ih =>
    have hpen : x + k₀ * c.glyphW + c.glyphW = x + (k₀ + 1 : Nat) * c.glyphW := by
      push_cast
      ring
    rw [textPoints, hpen, ih, List.zipIdx_cons, List.flatMap_cons]

/-- Settles O15: every drawing command is legal, and its rule is `draw` of its points; those of TEXT
are counted by `textPoints_eq_zipIdx`. -/
theorem drawingCommandsPlotTheirPoints : Obligations.DrawingCommandsPlotTheirPoints := by
  intro s hh answer
  refine ⟨fun x y colour => ?_, fun x0 y0 x1 y1 colour => ?_, fun x y w h colour => ?_,
    fun x y w h data _ => ?_, fun x y colour chars => ?_⟩
  · exact command_legal (i := .pset x y colour) hh rfl
  · exact command_legal (i := .line x0 y0 x1 y1 colour) hh rfl
  · exact command_legal (i := .rect x y w h colour) hh rfl
  · exact command_legal (i := .blit x y w h data) hh rfl
  · calc exec (.text x y colour chars) s
        = answer (textPoints s.cfg x.toInt y.toInt colour chars) :=
          command_legal (i := .text x y colour chars) hh rfl
      _ = _ := by
        have hpen := textPoints_eq_zipIdx s.cfg x.toInt y.toInt colour chars 0
        rw [Nat.cast_zero, zero_mul, add_zero] at hpen
        rw [hpen]

end Sys2Proof.Machine

namespace Sys2Proof

/-! ### The default line -/

section Bresenham

variable {x1 y1 dx dy sx sy err x y : Int} {n fuel : Nat}

theorem length_bresenham_le :
    (bresenham x1 y1 dx dy sx sy fuel err x y).length ≤ fuel := by
  induction fuel generalizing err x y with
  | zero => exact Nat.le_refl 0
  | succ fuel ih =>
    unfold bresenham
    split
    · simp
    · exact Nat.succ_le_succ ih

/-- The loop plots the position it stands at before it looks at anything else. -/
theorem start_mem_bresenham : (x, y) ∈ bresenham x1 y1 dx dy sx sy (fuel + 1) err x y := by
  unfold bresenham
  split
  · exact List.mem_singleton_self _
  · exact List.mem_cons_self

/-- The loop of 40_framebuffer.md R137 does not tell its two axes apart: with them exchanged, and
`err` counted the other way, it plots the mirrored points. -/
theorem bresenham_swap_axes :
    bresenham y1 x1 (-dy) (-dx) sy sx fuel (-err) y x =
      (bresenham x1 y1 dx dy sx sy fuel err x y).map Prod.swap := by
  induction fuel generalizing err x y with
  | zero => rfl
  | succ fuel ih =>
    have hright : 2 * -err ≤ -dy ↔ dy ≤ 2 * err := by omega
    have hdown : -dx ≤ 2 * -err ↔ 2 * err ≤ dx := by omega
    have herr : -err + (if 2 * err ≤ dx then -dx else 0) + (if dy ≤ 2 * err then -dy else 0) =
        -(err + (if dy ≤ 2 * err then dy else 0) + (if 2 * err ≤ dx then dx else 0)) := by
      split <;> split <;> ring
    simp only [bresenham, hright, hdown, herr, ih, and_comm (a := y = y1)]
    split <;> rfl

/-- Where the loop stands on a line that is no steeper than it is long (`-dy ≤ dx`), with `n` steps
to the right and `m` steps down still to go (right and down as the loop names them, in the
directions `sx` and `sy`). `err` has the one value these two numbers leave it, and that value lies
in the band in which every turn of the loop steps to the right. -/
structure OnShallowLine (x1 y1 dx dy sx sy err x y : Int) (n : Nat) (m : Int) : Prop where
  right : x1 = x + sx * n
  down : y1 = y + sy * m
  err_eq : err = dx * (1 - m) + dy * (1 - n)
  above : dy < 2 * err
  below : 2 * err ≤ 3 * dx + 2 * dy

/-- With no step to the right left, the band leaves no step down either. -/
theorem OnShallowLine.at_end {m : Int} (h : OnShallowLine x1 y1 dx dy sx sy err x y 0 m)
    (hdx : 0 < dx) (hdy : dy ≤ 0) : x = x1 ∧ y = y1 := by
  obtain ⟨hright, hdown, herr, habove, hbelow⟩ := h
  push_cast at herr
  have hm : m = 0 := by
    have hle : m < 1 := by
      by_contra hm
      have : 0 ≤ dx * (m - 1) := Int.mul_nonneg hdx.le (by omega)
      linarith
    have hge : -1 < m := by
      by_contra hm
      have : 0 ≤ dx * (-1 - m) := Int.mul_nonneg hdx.le (by omega)
      linarith
    omega
  subst hm
  exact ⟨by simpa using hright.symm, by simpa using hdown.symm⟩

/-- One turn of the loop steps to the right and stays in the band, with or without a step down. -/
theorem OnShallowLine.step {m : Int} (h : OnShallowLine x1 y1 dx dy sx sy err x y (n + 1) m)
    (hdy : dy ≤ 0) (hshallow : -dy ≤ dx) :
    dy ≤ 2 * err ∧ ∃ m', OnShallowLine x1 y1 dx dy sx sy
      (err + dy + (if 2 * err ≤ dx then dx else 0)) (x + sx)
      (if 2 * err ≤ dx then y + sy else y) n m' := by
  obtain ⟨hright, hdown, herr, habove, hbelow⟩ := h
  push_cast at hright herr
  refine ⟨habove.le, ?_⟩
  split
  · refine ⟨m - 1, ?_, ?_, ?_, ?_, ?_⟩
    · rw [hright]; ring
    · rw [hdown]; ring
    · rw [herr]; ring
    · linarith
    · linarith
  · refine ⟨m, ?_, hdown, ?_, ?_, ?_⟩
    · rw [hright]; ring
    · rw [herr]; ring
    · linarith
    · linarith

/-- On a shallow line the loop comes to the end point as the last of `n + 1` points. -/
theorem end_mem_bresenham {m : Int} (h : OnShallowLine x1 y1 dx dy sx sy err x y n m)
    (hdx : 0 < dx) (hdy : dy ≤ 0) (hshallow : -dy ≤ dx) :
    (x1, y1) ∈ bresenham x1 y1 dx dy sx sy (n + 1) err x y := by
  induction n generalizing err x y m with
  | zero =>
    obtain ⟨rfl, rfl⟩ := h.at_end hdx hdy
    exact start_mem_bresenham
  | succ n ih =>
    obtain ⟨hright, m', hnext⟩ := h.step hdy hshallow
    rw [bresenham]
    split
    next hend => rw [hend.1, hend.2]; exact List.mem_singleton_self _
    next =>
      simp only [if_pos hright]
      exact List.mem_cons_of_mem _ (ih hnext)

end Bresenham

/-- The direction of a coordinate times its distance. -/
theorem eq_add_direction_mul (a b : Int) :
    b = a + (if a < b then 1 else -1) * ((b - a).natAbs : Int) := by
  split <;> omega

theorem lineDefault_swap_axes (x0 y0 x1 y1 : Int) :
    lineDefault y0 x0 y1 x1 = (lineDefault x0 y0 x1 y1).map Prod.swap := by
  simp only [lineDefault]
  rw [← bresenham_swap_axes, neg_neg, neg_add_rev, neg_neg, Nat.max_comm]

/-- A line that is no steeper than it is long reaches its end point. -/
theorem end_mem_lineDefault_of_shallow {x0 y0 x1 y1 : Int}
    (hshallow : (y1 - y0).natAbs ≤ (x1 - x0).natAbs) :
    (x1, y1) ∈ lineDefault x0 y0 x1 y1 := by
  simp only [lineDefault]
  by_cases hpoint : (x1 - x0).natAbs = 0
  · obtain rfl : x1 = x0 := by omega
    obtain rfl : y1 = y0 := by omega
    exact start_mem_bresenham
  · rw [Nat.max_eq_left hshallow]
    refine end_mem_bresenham (m := (y1 - y0).natAbs) ⟨eq_add_direction_mul x0 x1,
      eq_add_direction_mul y0 y1, ?_, ?_, ?_⟩ ?_ ?_ ?_
    · ring
    all_goals omega

/-- Settles O16: a steep line is the mirror image of a shallow one. -/
theorem defaultLineReachesBothEndPoints : Obligations.DefaultLineReachesBothEndPoints := by
  intro x0 y0 x1 y1
  refine ⟨start_mem_bresenham, ?_, length_bresenham_le⟩
  rcases Nat.le_total (y1 - y0).natAbs (x1 - x0).natAbs with hshallow | hsteep
  · exact end_mem_lineDefault_of_shallow hshallow
  · rw [lineDefault_swap_axes y0 x0 y1 x1]
    exact List.mem_map_of_mem (f := Prod.swap) (end_mem_lineDefault_of_shallow hsteep)

end Sys2Proof
end

section
/-! PROOFS. 41_display.md: the commands of DOS (O17 to O20), the start of a transfer (O21), the whole
Frame it sends (O22), and its timeout (O23). -/

namespace Sys2Proof.Machine

variable {s t : State}

/-! ### DCOMP, DTRY, DWAIT, DCLR, DRESET -/

/-- SWAP answers `OK` exactly when it swaps (40_framebuffer.md R132): a SWAP turned away has another
condition, and one that holds has not answered. -/
theorem exec_swap_ok_iff (hh : s.sys.halted = false) (hp : s.fts.phase = .idle) :
    (∃ t v, exec .swap s = .next t ∧ t.out.rsp = s.out.rsp ++ [⟨.ok, v⟩]) ↔
      s.dos.dstate = .idle ∧ s.dos.fault = false := by
  constructor
  · rintro ⟨t, v, e, hrsp⟩
    obtain ⟨hfaulty, hturned, hholds⟩ := swapIsTurnedAwayOrHolds s hh hp
    by_contra hno
    cases hf : s.dos.fault with
    | true =>
      cases e.symm.trans (hfaulty hf)
      simp at hrsp
    | false =>
      have hbusy : s.dos.dstate ≠ .idle := fun hd => hno ⟨hd, hf⟩
      cases hb : s.cfg.swapBlock with
      | false =>
        cases e.symm.trans (hturned hf hbusy hb)
        simp at hrsp
      | true =>
        cases e.symm.trans (hholds hf hbusy hb)
        simp at hrsp
  · rintro ⟨hd, hf⟩
    exact ⟨_, _, swapExchangesTheRoles s hh hp hf hd, rfl⟩

/-- Settles O17: DCOMP's rule answers the condition, and `exec_swap_ok_iff` is the equivalence. -/
theorem dcompAnswersWhetherASwapSucceeds : Obligations.DcompAnswersWhetherASwapSucceeds := by
  refine ⟨by decide, fun s hh => ⟨?_, fun hp => (exec_swap_ok_iff hh hp).symm⟩⟩
  rw [exec, execDcomp, command_legal hh rfl]
  rfl

/-- DTRY is legal in every phase (41_display.md R153). -/
theorem exec_dtry (hh : s.sys.halted = false) :
    exec .dtry s =
      if s.dos.dstate ≠ .idle then raise .notReady 0 s
      else if s.dos.fault then raise .hardwareFault 0 s
      else done 0 s := by
  rw [exec, execDtry, command_legal hh rfl]

/-- DWAIT is legal in every phase (41_display.md R152). -/
theorem exec_dwait (hh : s.sys.halted = false) :
    exec .dwait s =
      if s.dos.dstate = .idle then
        if s.dos.fault then raise .hardwareFault 0 s else done 0 s
      else .next (s.setJob (some .dwait)) := by
  rw [exec, execDwait, command_legal hh rfl]

/-- Settles O18: the three branches of each rule. -/
theorem dtryAndDwaitAnswer : Obligations.DtryAndDwaitAnswer := by
  intro s hh
  rw [exec_dtry hh, exec_dwait hh]
  refine ⟨fun hd => ?_, fun hd hf => ?_, fun hd hf => ?_⟩
  · exact ⟨if_pos hd, if_neg hd⟩
  · rw [if_neg (not_not.2 hd), if_pos hd, if_pos hf]
    exact ⟨rfl, rfl⟩
  · rw [if_neg (not_not.2 hd), if_pos hd, hf]
    exact ⟨rfl, rfl⟩

/-- Settles O19: DCLR is legal in every phase. -/
theorem dclrClearsFaultOnly : Obligations.DclrClearsFaultOnly := by
  refine ⟨by decide, fun s hh => ?_⟩
  rw [exec, execDclr, command_legal hh rfl]
  rfl

/-- Settles O20: DRESET is legal in every phase. -/
theorem dresetReturnsTheSequencerToIdle : Obligations.DresetReturnsTheSequencerToIdle := by
  refine ⟨by decide, fun s hh => ?_⟩
  rw [exec, execDreset, command_legal hh rfl]
  rfl

/-! ### The start of a transfer -/

/-- Settles O21, by the two cases of D_BEGIN. -/
theorem vsyncStartsOnlyAnArmedTransfer : Obligations.VsyncStartsOnlyAnArmedTransfer := by
  intro s
  rcases dBegin_cases s with ⟨hh, ha, e⟩ | ⟨hlost, e⟩
  · exact ⟨fun _ _ => congrArg _ e, fun hlost => by simp [hh, ha] at hlost⟩
  · exact ⟨fun hh ha => by simp [hh, ha] at hlost, fun _ => congrArg _ e⟩

/-! ### The same event several times -/

theorem repeatTurn_append {e : Event} {m : Nat} (n : Nat) (h : repeatTurn e m s = .next t) :
    repeatTurn e (m + n) s = repeatTurn e n t := by
  induction m generalizing s with
  | zero =>
    cases h
    rw [Nat.zero_add]
  | succ m ih =>
    rw [Nat.succ_add]
    cases hturn : turn e s with
    | next u =>
      simp only [repeatTurn, hturn] at h ⊢
      exact ih h
    | fault f => simp [repeatTurn, hturn] at h
    | refused r => simp [repeatTurn, hturn] at h

theorem repeatTurn_one (e : Event) (s : State) : repeatTurn e 1 s = turn e s := by
  unfold repeatTurn
  cases turn e s <;> rfl

/-- One event more after `n` of them. -/
theorem repeatTurn_succ_last {e : Event} {n : Nat} (h : repeatTurn e n s = .next t) :
    repeatTurn e (n + 1) s = turn e t :=
  (repeatTurn_append 1 h).trans (repeatTurn_one e t)

/-! ### One D_WORD (41_display.md R161, R162) -/

/-- A D_WORD that is not enabled moves nothing. -/
theorem turn_dword_of_not_enabled (h : dWordEnabled s = false) : turn .dword s = .next s := by
  rcases dWord_cases s with ⟨_, e⟩ | ⟨he, _⟩ | ⟨he, _⟩
  · exact e
  · simp [h] at he
  · simp [h] at he

theorem dWordEnabled_eq_false_iff :
    dWordEnabled s = false ↔ s.sys.halted = true ∨ s.dos.dstate ≠ .active ∨
      s.env.panelAck = false ∨ s.dos.dbytes.toNat ≤ s.dos.didx.toNat * s.cfg.pixelBytes := by
  rw [← Bool.not_eq_true, dWordEnabled_iff]
  simp only [not_and_or, Bool.not_eq_false, Bool.not_eq_true, not_lt]

/-- An enabled D_WORD inside the Frame emits its pixel and counts it. -/
theorem turn_dword_of_enabled (h : dWordEnabled s = true)
    (hidx : s.dos.didx.toNat < s.cfg.nPix) :
    turn .dword s = .next (({ s with dos := dWordCount s.cfg s.dos }).emitPanel
      (.word (s.cfg.wire (s.framePixel s.dos.dsel s.dos.didx.toNat)))) := by
  rcases dWord_cases s with ⟨he, _⟩ | ⟨_, hout, _⟩ | ⟨_, _, e⟩
  · simp [h] at he
  · omega
  · exact e

/-- The registers of an ACTIVE transfer after a D_WORD: XDONE rises with the last byte. -/
theorem dWordCount_of_active {c : Config} {d : Dos} (ha : d.dstate = .active) :
    let last : Bool := (d.didx.toNat + 1) * c.pixelBytes = d.dbytes.toNat
    dWordCount c d =
      { d with
        didx := d.didx + 1
        dstate := if last then .idle else .active
        xdone := last || d.xdone } := by
  have hidx : BitVec.ofNat 32 (d.didx.toNat + 1) = d.didx + 1 := by bv_omega
  rcases dWordCount_cases c d with ⟨hlast, e⟩ | ⟨hmore, e⟩ <;> rw [e, hidx]
  · simp [hlast]
  · simp [hmore, ← ha]

/-! ### A transfer that nothing disturbs (41_display.md R165) -/

/-- A transfer of the whole Frame that D_WORD can move. -/
structure State.Streaming (s : State) : Prop where
  valid : s.cfg.Valid
  running : s.sys.halted = false
  active : s.dos.dstate = .active
  acked : s.env.panelAck = true
  bytes : s.dos.dbytes.toNat = s.cfg.frameBytes

/-- The state of a transfer that has moved its first `m` pixels and has more to move. -/
def State.streamed (s : State) (m : Nat) : State :=
  { s with
    dos := { s.dos with didx := BitVec.ofNat 32 m }
    out := { s.out with panel := s.out.panel ++ (s.frameWords s.dos.dsel).take m } }

/-- What a transfer leaves behind: its last pixels on the PANEL stream, and the registers of a
completed transfer. -/
structure TransferCompleted (s t : State) (pixels : List PanelItem) : Prop where
  panel : t.out.panel = s.out.panel ++ pixels
  idle : t.dos.dstate = .idle
  xdone : t.dos.xdone = true
  fault : t.dos.fault = s.dos.fault
  didx : t.dos.didx.toNat = s.cfg.nPix
  fbc : t.fbc = s.fbc

theorem State.streamed_zero (s : State) (h : s.dos.didx = 0) : s.streamed 0 = s := by
  simp only [State.streamed, List.take_zero, List.append_nil]
  rw [show BitVec.ofNat 32 0 = s.dos.didx from h.symm]

theorem State.length_frameWords (s : State) (k : Bool) : (s.frameWords k).length = s.cfg.nPix := by
  simp [State.frameWords]

/-- The first `m + 1` pixels of a Frame in transfer order. -/
theorem State.take_frameWords_succ (s : State) (k : Bool) {m : Nat} (hm : m < s.cfg.nPix) :
    (s.frameWords k).take (m + 1) =
      (s.frameWords k).take m ++ [.word (s.cfg.wire (s.framePixel k m))] := by
  rw [List.take_succ_eq_append_getElem (by rwa [s.length_frameWords])]
  simp [State.frameWords]

namespace State.Streaming

variable {m : Nat}

/-- A D_WORD is enabled while a pixel is left. -/
theorem enabled (h : s.Streaming) (hidx : s.dos.didx.toNat < s.cfg.nPix) :
    dWordEnabled s = true := by
  refine (dWordEnabled_iff s).2 ⟨h.running, h.active, h.acked, ?_⟩
  rw [h.bytes]
  exact Nat.mul_lt_mul_of_pos_right hidx h.valid.pixelBytes_pos

/-- D_BYTES is reached with the last pixel of the Frame. -/
theorem lastByte_iff (h : s.Streaming) :
    (s.dos.didx.toNat + 1) * s.cfg.pixelBytes = s.dos.dbytes.toNat ↔
      s.dos.didx.toNat + 1 = s.cfg.nPix := by
  rw [h.bytes]
  exact Nat.mul_left_inj h.valid.pixelBytes_pos.ne'

theorem streamed (h : s.Streaming) (m : Nat) : (s.streamed m).Streaming :=
  ⟨h.valid, h.running, h.active, h.acked, h.bytes⟩

theorem didx_streamed (h : s.Streaming) (hm : m < s.cfg.nPix) :
    (s.streamed m).dos.didx.toNat = m :=
  (BitVec.toNat_ofNat m 32).trans (Nat.mod_eq_of_lt (hm.trans h.valid.nPix_lt))

/-- The D_WORD that finds `m` pixels moved emits pixel `m`. -/
theorem turn_streamed (h : s.Streaming) (hm : m < s.cfg.nPix) :
    turn .dword (s.streamed m) = .next
      { s with
        dos := dWordCount s.cfg (s.streamed m).dos
        out := { s.out with panel := s.out.panel ++ (s.frameWords s.dos.dsel).take (m + 1) } } := by
  have hidx := h.didx_streamed hm
  have hlt : (s.streamed m).dos.didx.toNat < s.cfg.nPix := by rwa [hidx]
  rw [turn_dword_of_enabled ((h.streamed m).enabled hlt) hlt, hidx, s.take_frameWords_succ _ hm,
    ← List.append_assoc]
  rfl

/-- A D_WORD before the last pixel moves the transfer on by one. -/
theorem turn_streamed_more (h : s.Streaming) (hm : m + 1 < s.cfg.nPix) :
    turn .dword (s.streamed m) = .next (s.streamed (m + 1)) := by
  have hlt : m < s.cfg.nPix := by omega
  have hidx := h.didx_streamed hlt
  have hlast := (h.streamed m).lastByte_iff
  rw [h.turn_streamed hlt]
  rcases dWordCount_cases s.cfg (s.streamed m).dos with ⟨he, _⟩ | ⟨_, e⟩
  · have : m + 1 = s.cfg.nPix := hidx ▸ hlast.1 he
    omega
  · rw [e, hidx]
    rfl

/-- The D_WORD of the last pixel completes the transfer (41_display.md R162). -/
theorem turn_streamed_last (h : s.Streaming) (hm : m + 1 = s.cfg.nPix) :
    ∃ u, turn .dword (s.streamed m) = .next u ∧
      TransferCompleted s u (s.frameWords s.dos.dsel) := by
  have hlt : m < s.cfg.nPix := by omega
  have hidx := h.didx_streamed hlt
  have hlast := (h.streamed m).lastByte_iff
  refine ⟨_, h.turn_streamed hlt, ?_⟩
  rcases dWordCount_cases s.cfg (s.streamed m).dos with ⟨_, e⟩ | ⟨hne, _⟩
  · rw [e, hidx, hm, List.take_of_length_le (s.length_frameWords _).le]
    exact ⟨rfl, rfl, rfl, rfl,
      (BitVec.toNat_ofNat _ 32).trans (Nat.mod_eq_of_lt h.valid.nPix_lt), rfl⟩
  · exact absurd (hlast.2 (by rw [hidx]; exact hm)) hne

/-- Before the last pixel, each D_WORD has moved one pixel. -/
theorem repeatTurn_streamed (h : s.Streaming) (h0 : s.dos.didx = 0) (hm : m < s.cfg.nPix) :
    repeatTurn .dword m s = .next (s.streamed m) := by
  induction m with
  | zero => exact congrArg _ (s.streamed_zero h0).symm
  | succ m ih => rw [repeatTurn_succ_last (ih (by omega)), h.turn_streamed_more hm]

/-- As many D_WORD steps as the Frame has pixels send it all. -/
theorem repeatTurn_completed (h : s.Streaming) (h0 : s.dos.didx = 0) :
    ∃ u, repeatTurn .dword s.cfg.nPix s = .next u ∧
      TransferCompleted s u (s.frameWords s.dos.dsel) := by
  obtain ⟨m, hm⟩ := Nat.exists_eq_succ_of_ne_zero h.valid.nPix_pos.ne'
  rw [hm, repeatTurn_succ_last (h.repeatTurn_streamed h0 (by omega))]
  exact h.turn_streamed_last hm.symm

end State.Streaming

/-- An armed transfer of a state with the invariant, once VSYNC has begun it, is of the whole Frame
(41_display.md R160, R161). -/
theorem StateInv.streaming_of_armed (h : StateInv s) (hh : s.sys.halted = false)
    (ha : s.dos.dstate = .armed) (hack : s.env.panelAck = true) :
    State.Streaming { s with dos := { s.dos with dstate := .active },
                             out := { s.out with panel := s.out.panel ++ [.sof] } } := by
  obtain ⟨_, _, hbusy, _⟩ := h.dos
  obtain ⟨_, hbytes, _⟩ := hbusy (by rw [ha]; decide)
  exact ⟨h.cfg, hh, rfl, hack, hbytes⟩

/-- Settles O22: the two cases of D_WORD, and `repeatTurn_completed` for the transfer that the VSYNC
begins. -/
theorem transferStreamsTheWholeFrame : Obligations.TransferStreamsTheWholeFrame := by
  refine ⟨fun s hoff => turn_dword_of_not_enabled (dWordEnabled_eq_false_iff.2 hoff),
    fun s hh ha hack hleft hidx => ?_, fun s h hh ha hack => ?_⟩
  · rw [turn_dword_of_enabled ((dWordEnabled_iff s).2 ⟨hh, ha, hack, hleft⟩) hidx,
      dWordCount_of_active ha]
    rfl
  · obtain ⟨_, _, hbusy, harmed⟩ := h.dos
    obtain ⟨hsel, _⟩ := hbusy (by rw [ha]; decide)
    obtain ⟨u, hu, hdone⟩ := (h.streaming_of_armed hh ha hack).repeatTurn_completed (harmed ha)
    refine ⟨_, u, (vsyncStartsOnlyAnArmedTransfer s).1 hh ha, hu, ?_, hdone.idle, hdone.xdone,
      hdone.fault, hdone.didx, hdone.fbc,
      turn_dword_of_not_enabled (dWordEnabled_eq_false_iff.2 (.inr (.inl ?_)))⟩
    · rw [hdone.panel, ← hsel, List.append_assoc]
      rfl
    · rw [hdone.idle]
      decide

/-! ### The timeout (41_display.md R163) -/

/-- A state after `n` TB events that only counted. -/
def State.waited (s : State) (n : Nat) : State :=
  { s with
    dos := { s.dos with tmoCnt := s.dos.tmoCnt + BitVec.ofNat 32 n }
    sys := { s.sys with time := s.sys.time + BitVec.ofNat 64 n } }

/-- The transfer abandoned, once the TB event is counted. -/
def State.timedOut (s : State) : State :=
  ({ s with dos := { s.dos with dstate := .idle, fault := true } }).setSticky stickyHwfault

theorem State.waited_zero (s : State) : s.waited 0 = s := by simp [State.waited]

theorem State.waited_succ (s : State) (n : Nat) : (s.waited n).waited 1 = s.waited (n + 1) := by
  simp [State.waited, BitVec.ofNat_add, BitVec.add_assoc]

theorem State.waited_time (s : State) {n : Nat} (h : s.sys.time.toNat + n < 2 ^ 64) :
    (s.waited n).sys.time.toNat = s.sys.time.toNat + n := by
  simp only [State.waited]
  bv_omega

theorem State.waited_tmoCnt (s : State) {n : Nat} (h : s.dos.tmoCnt.toNat + n < 2 ^ 32) :
    (s.waited n).dos.tmoCnt.toNat = s.dos.tmoCnt.toNat + n := by
  simp only [State.waited]
  bv_omega

/-- A TB event short of the timeout counts; the one that reaches it abandons the transfer. -/
theorem turn_tb_of_busy (hh : s.sys.halted = false) (hbusy : s.dos.dstate ≠ .idle)
    (ht : s.sys.time.toNat + 1 < 2 ^ 64) :
    turn .tb s = .next
      (if s.dos.tmoCnt.toNat + 1 < s.cfg.xferTimeout then s.waited 1
       else (s.waited 1).timedOut) := by
  have hcount : BitVec.ofNat 32 (s.dos.tmoCnt.toNat + 1) = s.dos.tmoCnt + 1 := by bv_omega
  rcases tbStep_cases s with ⟨_, e⟩ | ⟨hwrap, _⟩
  · refine e.trans (congrArg _ ?_)
    rcases countTimeout_cases { s with sys := { s.sys with time := s.sys.time + 1 } } with
      ⟨hoff, _⟩ | ⟨_, _, hlt, e'⟩ | ⟨_, _, hge, e'⟩
    · simp [hh, hbusy] at hoff
    · rw [e', if_pos hlt, hcount]
      rfl
    · rw [e', if_neg (not_lt.2 hge), hcount]
      rfl
  · omega

/-- TB events short of the timeout only count. -/
theorem repeatTurn_tb_waited {n : Nat} (hh : s.sys.halted = false) (hbusy : s.dos.dstate ≠ .idle)
    (ht : s.sys.time.toNat + n < 2 ^ 64) (hx : s.cfg.xferTimeout < 2 ^ 32)
    (hn : s.dos.tmoCnt.toNat + n < s.cfg.xferTimeout) :
    repeatTurn .tb n s = .next (s.waited n) := by
  induction n with
  | zero => exact congrArg _ s.waited_zero.symm
  | succ n ih =>
    have htime : (s.waited n).sys.time.toNat = s.sys.time.toNat + n := s.waited_time (by omega)
    have hcnt : (s.waited n).dos.tmoCnt.toNat = s.dos.tmoCnt.toNat + n := s.waited_tmoCnt (by omega)
    rw [repeatTurn_succ_last (ih (by omega) (by omega)),
      turn_tb_of_busy (s := s.waited n) hh hbusy (by omega), hcnt]
    exact congrArg _ ((if_pos hn).trans (s.waited_succ n))

/-- The TB event that brings TMO_CNT to XFER_TIMEOUT is the last of the transfer. -/
theorem repeatTurn_tb_timedOut {n : Nat} (hh : s.sys.halted = false)
    (hbusy : s.dos.dstate ≠ .idle) (ht : s.sys.time.toNat + (n + 1) < 2 ^ 64)
    (hx : s.cfg.xferTimeout < 2 ^ 32)
    (hn : s.dos.tmoCnt.toNat + (n + 1) = s.cfg.xferTimeout) :
    repeatTurn .tb (n + 1) s = .next (s.waited (n + 1)).timedOut := by
  have htime : (s.waited n).sys.time.toNat = s.sys.time.toNat + n := s.waited_time (by omega)
  have hcnt : (s.waited n).dos.tmoCnt.toNat = s.dos.tmoCnt.toNat + n := s.waited_tmoCnt (by omega)
  have hreached : ¬ s.dos.tmoCnt.toNat + n + 1 < (s.waited n).cfg.xferTimeout := by
    show ¬ _ < s.cfg.xferTimeout
    omega
  rw [repeatTurn_succ_last (repeatTurn_tb_waited hh hbusy (by omega) hx (by omega)),
    turn_tb_of_busy (s := s.waited n) hh hbusy (by omega), hcnt, if_neg hreached,
    s.waited_succ]

/-- Settles O23: the TB events before the timeout by `repeatTurn_tb_waited`, the one that reaches it
by `repeatTurn_tb_timedOut`. -/
theorem stalledTransferTimesOut : Obligations.StalledTransferTimesOut := by
  intro s n h hh hbusy ht
  have hx := h.cfg.xferTimeout_lt
  obtain ⟨_, hfault, hpending, _⟩ := h.dos
  obtain ⟨_, _, _, htmo, _⟩ := hpending hbusy
  refine ⟨fun hn => ?_, fun hn => ?_⟩
  · have hnofault : s.dos.fault = false := by
      simpa using fun hf => hbusy (hfault hf)
    exact ⟨_, repeatTurn_tb_waited hh hbusy ht hx hn, rfl, hnofault, s.waited_tmoCnt (by omega),
      s.waited_time ht⟩
  · obtain ⟨n, rfl⟩ : ∃ m, n = m + 1 := Nat.exists_eq_succ_of_ne_zero (by omega)
    have hcnt : s.dos.tmoCnt + BitVec.ofNat 32 (n + 1) = BitVec.ofNat 32 s.cfg.xferTimeout := by
      rw [← hn]
      bv_omega
    refine ⟨_, repeatTurn_tb_timedOut hh hbusy ht hx hn, ?_, rfl, s.waited_time ht⟩
    rw [← hcnt]
    rfl

end Sys2Proof.Machine
end

section
/-! PROOFS. 42_audio.md: the control commands (O25 to O27), the mixer (O28 to O30), one channel over
several samples (O31, O32), the queue and its consumer (O33, O34), and the production commands (O35 to
O38, O60). -/

namespace Sys2Proof.Machine

variable {s t : State} {c : Config}

/-! ### The control commands -/

/-- A control command that is legal writes its field and answers `OK` (42_audio.md R170). -/
theorem exec_channel {i : Instr} {ch : BitVec 8} {f : Channel → Channel}
    (hh : s.sys.halted = false) (hl : legal i s = true)
    (he : exec i s = command i s fun s => done 0 (s.modifyChan ch f)) :
    exec i s = .next ((s.modifyChan ch f).respond .ok 0) :=
  he.trans (command_legal hh hl)

/-- Settles O25: each command is legal with its operand in range, and its rule writes the field. -/
theorem channelSettingsWriteTheirField : Obligations.ChannelSettingsWriteTheirField := by
  intro s ch hh hch
  refine ⟨fun k kd hk => ?_, fun v hv => ?_, fun v => ?_, fun v => ?_, fun f => ?_,
    fun b l hbl => ?_⟩
  · have hkind : kindOfNat k.toNat = some kd := kindOfNat_code.2 hk
    have hle : k.toNat ≤ 4 := by simpa [hkind] using kindOfNat_isSome k.toNat
    rw [exec, execChwave, command_legal hh (by simp [legal, hch, hle])]
    simp only [hkind]
    rfl
  · exact exec_channel hh (by simp [legal, hch, hv]) rfl
  · exact exec_channel hh (by simp [legal, hch]) rfl
  · exact exec_channel hh (by simp [legal, hch]) rfl
  · cases f with
    | false => exact exec_channel hh (by simp [legal, hch]) rfl
    | true => exact exec_channel hh (by simp [legal, hch]) rfl
  · exact exec_channel hh (by simp [legal, hch, hbl]) rfl

/-- Settles O26: both commands are legal for every channel of the block. -/
theorem chstartLoadsAndChstopKeepsTheCursor : Obligations.ChstartLoadsAndChstopKeepsTheCursor := by
  intro s ch hh hch
  exact ⟨exec_channel hh (by simp [legal, hch]) rfl, exec_channel hh (by simp [legal, hch]) rfl⟩

/-! ### What the first step of a command leaves of the mixer -/

/-- What a control command can write into its channel without CHSTART (42_audio.md R179). -/
theorem ChannelWrite.keeps_cursor {i : Instr} {ch : BitVec 8} {f : Channel → Channel}
    (h : ChannelWrite c i ch f) :
    (∀ x, (f x).cur = x.cur ∧ (f x).lfsr = x.lfsr) ∨ i = .chstart ch := by
  cases h with
  | start => exact .inr rfl
  | kind | vol | step | pos | stop | loop | table => exact .inl fun _ => ⟨rfl, rfl⟩

@[simp] theorem sampleInputs_mix (s : State) : (sampleInputs s).mix = s.mix := by
  rcases sampleInputs_cases s with ⟨_, e⟩ | ⟨_, e⟩ <;> simp [e]

/-- A legal command leaves MIX alone, or is a control command that writes one channel. -/
theorem Effect.mix_cases {i : Instr} (h : Effect s i t) :
    t.mix = s.mix ∨ ∃ ch f, ChannelWrite s.cfg i ch f ∧ t.mix = (s.modifyChan ch f).mix := by
  cases h with
  | channel _ ch f _ hw => exact .inr ⟨ch, f, hw, rfl⟩
  | insample => exact .inl (sampleInputs_mix s)
  | answer | draw | swap | holdSwap | holdDwait | dclr | dreset | nothing | mixt | mixd | mixw | run
  | cbret | panic => exact .inl rfl

theorem exec_mix_cases {i : Instr} (e : exec i s = .next t) :
    t.mix = s.mix ∨ ∃ ch f, ChannelWrite s.cfg i ch f ∧ t.mix = (s.modifyChan ch f).mix := by
  rcases exec_cases i s with ⟨_, e'⟩ | ⟨_, _, e'⟩ | ⟨_, _, u, he, e'⟩ <;> cases e.symm.trans e'
  · exact .inl rfl
  · exact .inl rfl
  · exact he.mix_cases

/-- Settles O27: a first step that writes a channel at all is a control command, and of those CHSTART
alone writes CUR or LFSR. -/
theorem firstStepKeepsCursorsButChstart : Obligations.FirstStepKeepsCursorsButChstart := by
  intro i s t e
  rcases exec_mix_cases e with hmix | ⟨ch, f, hw, hmix⟩ <;> rw [hmix]
  · refine ⟨rfl, rfl, rfl, rfl, rfl, rfl, fun n old new hold hnew => .inl ?_⟩
    cases hold.symm.trans hnew
    exact ⟨rfl, rfl⟩
  · refine ⟨rfl, rfl, rfl, rfl, rfl, List.length_modify .., fun n old new hold hnew => ?_⟩
    rw [State.modifyChan_chans, List.getElem?_modify, hold] at hnew
    have hnew : (if ch.toNat = n then f old else old) = new := Option.some.inj hnew
    by_cases hn : ch.toNat = n
    · rw [← hnew, if_pos hn]
      exact hw.keeps_cursor.imp (fun hkeep => hkeep old) fun hstart => ⟨ch, hstart, hn⟩
    · rw [← hnew, if_neg hn]
      exact .inl ⟨rfl, rfl⟩

/-! ### The order of the channels (42_audio.md R189) -/

/-- The accumulator of a channel file: the first channel's term and the accumulator of the rest. -/
theorem mixTerms_acc_cons (c : Config) (m : Mix) (ch : Channel) (rest : List Channel) :
    (mixTerms c m (ch :: rest)).map Prod.fst =
      (chanTerm c m ch).bind fun a => ((mixTerms c m rest).map Prod.fst).map (a.1 + ·) := by
  rw [mixTerms]
  cases chanTerm c m ch with
  | none => rfl
  | some a => cases mixTerms c m rest <;> rfl

/-- The accumulator is a sum, so the order of the channels does not matter. -/
theorem mixTerms_acc_perm {m : Mix} {chans chans' : List Channel} (h : chans.Perm chans') :
    (mixTerms c m chans).map Prod.fst = (mixTerms c m chans').map Prod.fst := by
  induction h with
  | nil => rfl
  | cons ch _ ih => rw [mixTerms_acc_cons, mixTerms_acc_cons, ih]
  | swap ch ch' rest =>
    simp only [mixTerms_acc_cons]
    cases chanTerm c m ch with
    | none => cases chanTerm c m ch' <;> rfl
    | some a =>
      cases chanTerm c m ch' with
      | none => rfl
      | some b =>
        cases mixTerms c m rest with
        | none => rfl
        | some r => exact congrArg some (add_left_comm b.1 a.1 r.1)
  | trans _ _ ih ih' => exact ih.trans ih'

/-- The sample is a function of the accumulator (42_audio.md R187, R188). -/
theorem mixOne_fst (c : Config) (m : Mix) :
    (mixOne c m).map Prod.fst =
      ((mixTerms c m m.chans).map Prod.fst).map fun acc => sat16 (scaleAcc acc) := by
  rw [mixOne, Option.map_map, Option.map_map]
  rfl

/-- Settles O28: the sample depends on the accumulator alone. -/
theorem mixingIsOrderIndependent : Obligations.MixingIsOrderIndependent := by
  intro c m m' hsmp hperm
  rw [mixOne_fst, mixOne_fst, mixTerms_congr hsmp, mixTerms_acc_perm hperm]

/-! ### The exact sum (42_audio.md R180, R187, R188) -/

theorem chanSample_tone (m : Mix) {ch : Channel} {tone : Tone} (h : ch.kind = .tone tone) :
    chanSample c m ch = some (toneSample c tone ch) := by
  rw [chanSample, h]

theorem chanSample_table (m : Mix) {ch : Channel} (h : ch.kind = .sample) :
    chanSample c m ch = tableSample c m ch := by
  rw [chanSample, h]

/-- What an active channel adds to the accumulator: its sample times its volume. -/
def weightedSample (c : Config) (m : Mix) (ch : Channel) : Int :=
  match chanSample c m ch with
  | some r => r.1.toInt * (ch.vol.toNat : Int)
  | none => 0

/-- The term of a channel is its weighted sample, or 0 when it is inactive. -/
theorem chanTerm_fst {m : Mix} {ch : Channel} {r : Int × Channel} (h : chanTerm c m ch = some r) :
    r.1 = if ch.active then weightedSample c m ch else 0 := by
  cases ha : ch.active with
  | false =>
    rw [chanTerm_inactive ha] at h
    cases h
    rfl
  | true =>
    rw [chanTerm_active ha] at h
    obtain ⟨r', hr, rfl⟩ := Option.map_eq_some_iff.1 h
    simp [weightedSample, hr]

/-- What a channel becomes: itself when it is inactive, else what `ChanSample` leaves. -/
theorem chanTerm_snd {m : Mix} {ch : Channel} {r : Int × Channel} (h : chanTerm c m ch = some r) :
    (ch.active = false → r.2 = ch) ∧
      (ch.active = true → (chanSample c m ch).map Prod.snd = some r.2) := by
  refine ⟨fun ha => ?_, fun ha => ?_⟩
  · rw [chanTerm_inactive ha] at h
    cases h
    rfl
  · rw [chanTerm_active ha] at h
    obtain ⟨r', hr, rfl⟩ := Option.map_eq_some_iff.1 h
    rw [hr]
    rfl

/-- The accumulator is the sum of the weighted samples of the active channels. -/
theorem mixTerms_acc {m : Mix} {chans : List Channel} {r : Int × List Channel}
    (h : mixTerms c m chans = some r) :
    r.1 = ((chans.filter fun ch => ch.active).map (weightedSample c m)).sum := by
  induction chans generalizing r with
  | nil =>
    cases h
    rfl
  | cons ch rest ih =>
    obtain ⟨a, ch', b, rest', hterm, hrest, rfl⟩ := mixTerms_cons.1 h
    have ha : a = if ch.active then weightedSample c m ch else 0 := chanTerm_fst hterm
    have hb : b = _ := ih hrest
    cases hact : ch.active with
    | false => simp [ha, hb, hact]
    | true => simp [ha, hb, hact]

/-- Settles O30: `mixOne_eq_some` says what is computed, `mixTerms_acc` which sum it is and
`mixTerms_forall₂` what each channel becomes. -/
theorem mixSaturatesTheExactSumOnce : Obligations.MixSaturatesTheExactSumOnce := by
  intro c m m' v h
  obtain ⟨acc, chans, hterms, rfl, rfl⟩ := mixOne_eq_some.1 h
  have hall := mixTerms_forall₂ hterms
  refine ⟨rfl, hall.length_eq.symm, fun n ch hn => ?_, ?_⟩
  · obtain ⟨hlt, rfl⟩ := List.getElem?_eq_some_iff.1 hn
    have hlt' : n < chans.length := hall.length_eq ▸ hlt
    obtain ⟨a, hterm⟩ := hall.get hlt hlt'
    have hget : chans[n]? = some chans[n] := List.getElem?_eq_getElem hlt'
    obtain ⟨hoff, hon⟩ := chanTerm_snd hterm
    exact ⟨fun ha => hget.trans (congrArg some (hoff ha)), fun ha => hget.trans (hon ha).symm⟩
  · have hacc : acc = _ := mixTerms_acc hterms
    rw [sat16_toInt, scaleAcc, hacc, Int.fdiv_eq_ediv_of_nonneg _ (by decide)]
    rfl

/-- The accumulator of inactive channels is 0 (42_audio.md R180). -/
theorem mixTerms_quiet (m : Mix) {chans : List Channel} (h : ∀ ch ∈ chans, ch.active = false) :
    mixTerms c m chans = some (0, chans) := by
  induction chans with
  | nil => rfl
  | cons ch rest ih =>
    have hterm : chanTerm c m ch = some (0, ch) := chanTerm_inactive (h ch (List.mem_cons_self ..))
    exact mixTerms_cons.2 ⟨0, ch, 0, rest, hterm, ih fun x hx => h x (List.mem_cons_of_mem _ hx), rfl⟩

/-- The term of an active tone channel (42_audio.md R180, R182). -/
theorem chanTerm_tone (m : Mix) {ch : Channel} {tone : Tone} (ha : ch.active = true)
    (hk : ch.kind = .tone tone) :
    chanTerm c m ch = some ((c.waveFn tone ch.cur ch.lfsr).toInt * (ch.vol.toNat : Int),
      (toneSample c tone ch).2) := by
  rw [chanTerm_active ha, chanSample_tone m hk]
  rfl

/-- Settles O29: the accumulator is 128 (s1 + s2), and half of the sum of two samples is a sample. -/
theorem twoHalfVolumeTonesAverage : Obligations.TwoHalfVolumeTonesAverage := by
  intro c m a b ta tb quiet hchans ha hb hka hkb hva hvb hquiet
  have hrest := mixTerms_cons.2
    ⟨_, _, _, _, chanTerm_tone (c := c) m hb hkb, mixTerms_quiet m hquiet, rfl⟩
  have hterms := mixTerms_cons.2 ⟨_, _, _, _, chanTerm_tone m ha hka, hrest, rfl⟩
  refine ⟨_, _, mixOne_eq_some.2 ⟨_, _, hchans ▸ hterms, rfl, rfl⟩, ?_⟩
  generalize c.waveFn ta a.cur a.lfsr = s1
  generalize c.waveFn tb b.cur b.lfsr = s2
  have h1 := s1.le_toInt
  have h1' := s1.toInt_lt
  have h2 := s2.le_toInt
  have h2' := s2.toInt_lt
  have hvol : ((128 : BitVec 9).toNat : Int) = 128 := rfl
  rw [hva, hvb, hvol, sat16_toInt, scaleAcc, Int.fdiv_eq_ediv_of_nonneg _ (by decide)]
  norm_num at h1 h1' h2 h2'
  omega

/-! ### One channel over several samples -/

/-- One sample period of one channel: its sample and what it becomes, 0 and itself when it is inactive
(42_audio.md R180). -/
def channelPeriod (c : Config) (m : Mix) (ch : Channel) : Option (Sample × Channel) :=
  if ch.active then chanSample c m ch else some (0, ch)

/-- One sample period in front of others. -/
theorem playChannel_succ {m : Mix} {n : Nat} {ch ch' ch'' : Channel} {v : Sample}
    {vs : List Sample} (h : channelPeriod c m ch = some (v, ch'))
    (h' : playChannel c m n ch' = some (vs, ch'')) :
    playChannel c m (n + 1) ch = some (v :: vs, ch'') := by
  unfold channelPeriod at h
  simp only [playChannel, h, h']

/-- A channel that runs through the states `chs` with the samples `vs`, in front of what follows. -/
theorem playChannel_of_periods_append {m : Mix} {n k : Nat} {chs : Nat → Channel}
    {vs : Nat → Sample} {ws : List Sample} {ch' : Channel}
    (h : ∀ i < n, channelPeriod c m (chs i) = some (vs i, chs (i + 1)))
    (h' : playChannel c m k (chs n) = some (ws, ch')) :
    playChannel c m (n + k) (chs 0) = some ((List.range n).map vs ++ ws, ch') := by
  induction n generalizing k ws with
  | zero => rwa [Nat.zero_add]
  | succ n ih =>
    have hlast := playChannel_succ (h n (Nat.lt_succ_self n)) h'
    rw [Nat.succ_add_eq_add_succ, ih (fun i hi => h i (Nat.lt_succ_of_lt hi)) hlast,
      List.range_succ, List.map_append, List.append_assoc]
    rfl

theorem playChannel_of_periods {m : Mix} {n : Nat} {chs : Nat → Channel} {vs : Nat → Sample}
    (h : ∀ i < n, channelPeriod c m (chs i) = some (vs i, chs (i + 1))) :
    playChannel c m n (chs 0) = some ((List.range n).map vs, chs n) := by
  have := playChannel_of_periods_append (k := 0) h rfl
  rwa [List.append_nil] at this

theorem channelPeriod_active (m : Mix) {ch : Channel} (h : ch.active = true) :
    channelPeriod c m ch = chanSample c m ch := if_pos h

theorem channelPeriod_inactive (m : Mix) {ch : Channel} (h : ch.active = false) :
    channelPeriod c m ch = some (0, ch) := by
  rw [channelPeriod, h, if_neg Bool.false_ne_true]

/-- An inactive channel is silent and stays as it is (42_audio.md R180). -/
theorem playChannel_inactive (m : Mix) {ch : Channel} (h : ch.active = false) (k : Nat) :
    playChannel c m k ch = some (List.replicate k 0, ch) := by
  have := playChannel_of_periods (n := k) (chs := fun _ => ch) fun _ _ =>
    channelPeriod_inactive (c := c) m h
  rwa [List.map_const', List.length_range] at this

/-! ### A table channel (42_audio.md R183) -/

/-- The channel with its read cursor at entry `i`. -/
def Channel.atEntry (ch : Channel) (i : Nat) : Channel := { ch with cur := BitVec.ofNat 32 i }

theorem Channel.atEntry_zero (ch : Channel) (h : ch.cur = 0) : ch.atEntry 0 = ch := by
  show { ch with cur := (0 : Word) } = ch
  rw [← h]

theorem Channel.atEntry_cur (ch : Channel) {i : Nat} (hi : i < ch.tlen.toNat) :
    (ch.atEntry i).cur.toNat = i :=
  (BitVec.toNat_ofNat i 32).trans (Nat.mod_eq_of_lt (hi.trans ch.tlen.isLt))

/-- Past its last entry a table starts again when it loops, else it stops. -/
theorem tableAdvance_atEntry {ch : Channel} {i : Nat} (hi : i < ch.tlen.toNat) :
    tableAdvance (ch.atEntry i) =
      if i + 1 = ch.tlen.toNat then
        if ch.loop then ch.atEntry 0 else { ch.atEntry (i + 1) with active := false }
      else ch.atEntry (i + 1) := by
  unfold tableAdvance
  rw [ch.atEntry_cur hi]
  rfl

/-- An active table channel inside SMP plays the entry at its cursor. -/
theorem channelPeriod_atEntry (m : Mix) {ch : Channel} {i : Nat} (ha : ch.active = true)
    (hk : ch.kind = .sample) (hi : i < ch.tlen.toNat)
    (hsmp : ch.tbase.toNat + ch.tlen.toNat ≤ c.smpSize) :
    channelPeriod c m (ch.atEntry i) =
      some (m.smpAt (ch.tbase.toNat + i), tableAdvance (ch.atEntry i)) := by
  have hcur := ch.atEntry_cur hi
  rw [channelPeriod_active m (ch := ch.atEntry i) ha, chanSample_table m (ch := ch.atEntry i) hk]
  rcases tableSample_cases c m (ch.atEntry i) with ⟨hend, _⟩ | ⟨_, _, e⟩ | ⟨_, hout, _⟩
  · rw [hcur] at hend
    exact absurd hi (not_lt.2 hend)
  · rw [e, hcur]
    rfl
  · rw [hcur] at hout
    exact absurd hout (by show ¬ c.smpSize ≤ ch.tbase.toNat + i; omega)

/-- At or beyond its end a table channel gives 0 and stops. -/
theorem channelPeriod_ended (m : Mix) {ch : Channel} (ha : ch.active = true)
    (hk : ch.kind = .sample) (hend : ch.tlen.toNat ≤ ch.cur.toNat) :
    channelPeriod c m ch = some (0, { ch with active := false }) := by
  rw [channelPeriod_active m ha, chanSample_table m hk]
  exact if_pos hend

/-- A table that does not loop plays its entries, stops, and is silent from then on. -/
theorem playChannel_table_once (m : Mix) {ch : Channel} (ha : ch.active = true)
    (hk : ch.kind = .sample) (hloop : ch.loop = false) (hlen : ch.tlen ≠ 0)
    (hsmp : ch.tbase.toNat + ch.tlen.toNat ≤ c.smpSize) (k : Nat) :
    playChannel c m (ch.tlen.toNat + k) (ch.atEntry 0) =
      some ((List.range ch.tlen.toNat).map (fun i => m.smpAt (ch.tbase.toNat + i)) ++
          List.replicate k 0,
        { ch with cur := ch.tlen, active := false }) := by
  obtain ⟨n, hn⟩ : ∃ n, ch.tlen.toNat = n + 1 := Nat.exists_eq_succ_of_ne_zero (by bv_omega)
  have hend : ch.atEntry (n + 1) = { ch with cur := ch.tlen } := by
    rw [Channel.atEntry, ← hn, BitVec.ofNat_toNat, BitVec.setWidth_eq]
  have hstop : tableAdvance (ch.atEntry n) = { ch.atEntry (n + 1) with active := false } := by
    rw [tableAdvance_atEntry (by omega), if_pos hn.symm, if_neg (by simp [hloop])]
  have hlast : playChannel c m (k + 1) (ch.atEntry n) =
      some (m.smpAt (ch.tbase.toNat + n) :: List.replicate k 0,
        { ch with cur := ch.tlen, active := false }) := by
    refine playChannel_succ ?_ (playChannel_inactive m rfl k)
    rw [channelPeriod_atEntry m ha hk (by omega) hsmp, hstop, hend]
  rw [hn, Nat.succ_add_eq_add_succ, List.range_succ, List.map_append, List.append_assoc]
  refine playChannel_of_periods_append (chs := ch.atEntry) (fun i hi => ?_) hlast
  rw [channelPeriod_atEntry m ha hk (by omega) hsmp, tableAdvance_atEntry (by omega),
    if_neg (by omega)]

theorem add_one_mod_eq_ite {n : Nat} (h : 0 < n) (i : Nat) :
    (i + 1) % n = if i % n + 1 = n then 0 else i % n + 1 := by
  have hlt := Nat.mod_lt i h
  rw [← Nat.mod_add_mod]
  split
  · rename_i hlast
    rw [hlast, Nat.mod_self]
  · exact Nat.mod_eq_of_lt (by omega)

/-- A looping table plays entry `j mod TLEN` as sample `j`. -/
theorem playChannel_table_loop (m : Mix) {ch : Channel} (ha : ch.active = true)
    (hk : ch.kind = .sample) (hloop : ch.loop = true) (hlen : ch.tlen ≠ 0)
    (hsmp : ch.tbase.toNat + ch.tlen.toNat ≤ c.smpSize) (k : Nat) :
    playChannel c m k (ch.atEntry 0) =
      some ((List.range k).map (fun i => m.smpAt (ch.tbase.toNat + i % ch.tlen.toNat)),
        ch.atEntry (k % ch.tlen.toNat)) := by
  have hpos : 0 < ch.tlen.toNat := by bv_omega
  have hstart : ch.atEntry 0 = ch.atEntry (0 % ch.tlen.toNat) := by rw [Nat.zero_mod]
  rw [hstart]
  refine playChannel_of_periods (chs := fun i => ch.atEntry (i % ch.tlen.toNat)) fun i _ => ?_
  have hi := Nat.mod_lt i hpos
  rw [channelPeriod_atEntry m ha hk hi hsmp, tableAdvance_atEntry hi, add_one_mod_eq_ite hpos, hloop]
  split <;> rfl

/-- Settles O31: a table that plays once and then silence, a table that loops, and a cursor at or
beyond the end. -/
theorem tableChannelPlaysItsTable : Obligations.TableChannelPlaysItsTable := by
  intro c m ch k ha hk
  refine ⟨fun hloop h0 hlen hsmp => ?_, fun hloop h0 hlen hsmp => ?_, fun hend => ?_⟩
  · have htable := playChannel_table_once m ha hk hloop hlen hsmp k
    rwa [ch.atEntry_zero h0] at htable
  · have htable := playChannel_table_loop m ha hk hloop hlen hsmp k
    rwa [ch.atEntry_zero h0] at htable
  · exact playChannel_succ (channelPeriod_ended m ha hk hend) (playChannel_inactive m rfl k)

/-! ### A tone channel (42_audio.md R182, R185) -/

/-- How often the phase of a noise channel has wrapped after `k` samples; no other tone's generator
steps. -/
def Channel.wraps (ch : Channel) (tone : Tone) (k : Nat) : Nat :=
  if tone = .noise then (ch.cur.toNat + k * ch.step.toNat) / 2 ^ 32 else 0

/-- A tone channel after `k` samples. -/
def Channel.afterTone (ch : Channel) (c : Config) (tone : Tone) (k : Nat) : Channel :=
  { ch with
    cur := ch.cur + BitVec.ofNat 32 k * ch.step
    lfsr := Nat.iterate c.lfsrStep (ch.wraps tone k) ch.lfsr }

theorem Channel.afterTone_zero (ch : Channel) (c : Config) (tone : Tone) :
    ch.afterTone c tone 0 = ch := by
  have hcur := ch.cur.isLt
  have hwraps : ch.wraps tone 0 = 0 := by
    rw [wraps, Nat.zero_mul, Nat.add_zero, Nat.div_eq_of_lt hcur, ite_self]
  rw [afterTone, hwraps]
  simp

/-- The phase after `k` samples, as a number. -/
theorem Channel.afterTone_cur (ch : Channel) (c : Config) (tone : Tone) (k : Nat) :
    (ch.afterTone c tone k).cur.toNat = (ch.cur.toNat + k * ch.step.toNat) % 2 ^ 32 := by
  simp [afterTone]

/-- The phase wraps in a sample exactly when phase and STEP together reach 2^32. -/
theorem Channel.wraps_succ (ch : Channel) (c : Config) (tone : Tone) (k : Nat) :
    ch.wraps tone (k + 1) = ch.wraps tone k +
      if tone = .noise ∧ 2 ^ 32 ≤ (ch.afterTone c tone k).cur.toNat + ch.step.toNat
      then 1 else 0 := by
  rw [ch.afterTone_cur, wraps, wraps, Nat.succ_mul]
  by_cases ht : tone = .noise
  · have hstep := ch.step.isLt
    simp only [ht, if_true, true_and]
    split <;> omega
  · simp [ht]

/-- One more sample of a tone channel. -/
theorem toneSample_afterTone (ch : Channel) (c : Config) (tone : Tone) (k : Nat) :
    toneSample c tone (ch.afterTone c tone k) =
      (c.waveFn tone (ch.afterTone c tone k).cur (ch.afterTone c tone k).lfsr,
        ch.afterTone c tone (k + 1)) := by
  have hcur : BitVec.ofNat 32 ((ch.afterTone c tone k).cur.toNat + ch.step.toNat) =
      (ch.afterTone c tone (k + 1)).cur := by
    simp only [Channel.afterTone, BitVec.ofNat_add, BitVec.ofNat_toNat, BitVec.setWidth_eq,
      BitVec.add_mul, BitVec.one_mul, BitVec.add_assoc]
  have hlfsr : (if tone = .noise ∧ 2 ^ 32 ≤ (ch.afterTone c tone k).cur.toNat + ch.step.toNat
      then c.lfsrStep (ch.afterTone c tone k).lfsr else (ch.afterTone c tone k).lfsr) =
      (ch.afterTone c tone (k + 1)).lfsr := by
    show _ = Nat.iterate c.lfsrStep (ch.wraps tone (k + 1)) ch.lfsr
    rw [ch.wraps_succ c]
    split
    · exact (Function.iterate_succ_apply' ..).symm
    · rfl
  simp only [toneSample]
  rw [show (ch.afterTone c tone k).step = ch.step from rfl, hcur, hlfsr]
  rfl

/-- Settles O32: `afterTone` is the run of the channel. -/
theorem tonePhaseAdvancesByStep : Obligations.TonePhaseAdvancesByStep := by
  intro c m ch tone n ha hk
  have hperiod (k : Nat) : channelPeriod c m (ch.afterTone c tone k) =
      some (toneSample c tone (ch.afterTone c tone k)) :=
    (channelPeriod_active (ch := ch.afterTone c tone k) m ha).trans (chanSample_tone m hk)
  have hrun := playChannel_of_periods (n := n) (m := m) (chs := ch.afterTone c tone) fun k _ =>
    (hperiod k).trans (congrArg some (toneSample_afterTone ch c tone k))
  rw [ch.afterTone_zero] at hrun
  refine ⟨_, hrun, by simp, fun k hk => ?_⟩
  rw [List.getElem?_map, List.getElem?_range hk]
  rfl

/-! ### The queue and its consumer -/

theorem drain_of_empty {m : Mix} (h : m.qCount = 0) : drain c m = { m with pcmOut := 0 } :=
  if_pos h

theorem drain_of_nonempty {m : Mix} (h : m.qCount ≠ 0) :
    drain c m = { m with pcmOut := m.qAt (m.qRd.toNat % c.qCap), qRd := m.qRd + 1 } :=
  if_neg h

/-- The queued samples after Enqueue (42_audio.md R191). -/
theorem queued_enqueue {m : Mix} (hc : c.Valid) (v : Sample) (h : m.qCount.toNat < c.qCap) :
    (enqueue c v m).queued c = m.queued c ++ [v] := by
  have hread {k : Nat} (hk : k ≤ m.qCount.toNat) :=
    enqueue_read (v := v) hc.qCap_pow hc.qCap_le hk h
  have hold : ∀ k ∈ List.range m.qCount.toNat,
      (enqueue c v m).qAt (m.slot c k) = m.qAt (m.slot c k) := fun k hk => by
    have hlt := List.mem_range.1 hk
    rw [Mix.qAt, Mix.qAt, hread hlt.le, if_neg hlt.ne]
  have hnew : (enqueue c v m).qAt (m.slot c m.qCount.toNat) = v := by
    rw [Mix.qAt, hread le_rfl, if_pos rfl, Option.getD_some]
  simp only [Mix.queued, qCount_enqueue hc.qCap_le h, enqueue_slot, List.range_succ,
    List.map_append, List.map_congr_left hold, List.map_singleton, hnew]

/-- The queued samples are the one a drain takes and those it leaves (42_audio.md R198). -/
theorem queued_eq_cons_drain {m : Mix} (h : m.qCount ≠ 0) :
    m.queued c = (drain c m).pcmOut :: (drain c m).queued c := by
  obtain ⟨n, hn⟩ : ∃ n, m.qCount.toNat = n + 1 := Nat.exists_eq_succ_of_ne_zero (by bv_omega)
  have hcount : (drain c m).qCount.toNat = n := by rw [qCount_drain, hn, Nat.add_sub_cancel]
  have hfirst : (drain c m).pcmOut = m.qAt (m.slot c 0) := by
    rw [drain_of_nonempty h, Mix.slot, BitVec.add_zero]
  obtain ⟨_, _, hq, _⟩ := drain_frame c m
  have hrest (k : Nat) : (drain c m).qAt ((drain c m).slot c k) = m.qAt (m.slot c (k + 1)) := by
    rw [drain_slot h, Mix.qAt, Mix.qAt, hq]
  simp only [Mix.queued, hcount, hn, List.range_succ_eq_map, List.map_cons, List.map_map, hfirst,
    Function.comp_def, hrest, Nat.succ_eq_add_one]

theorem length_queued (c : Config) (m : Mix) : (m.queued c).length = m.qCount.toNat := by
  simp [Mix.queued]

/-- Settles O33, by `queued_enqueue` and `queued_eq_cons_drain`. -/
theorem queueIsFirstInFirstOut : Obligations.QueueIsFirstInFirstOut := by
  intro c m hc _
  refine ⟨fun v => queued_enqueue hc v, fun v vs hq => ?_, fun hq => ?_⟩
  · have hne : m.qCount ≠ 0 := fun h0 => by simpa [hq, h0] using length_queued c m
    rw [queued_eq_cons_drain hne] at hq
    exact List.cons.inj hq
  · have h0 : m.qCount = 0 := by
      have := length_queued c m
      rw [hq, List.length_nil] at this
      bv_omega
    rw [drain_of_empty h0]
    exact ⟨rfl, hq⟩

theorem turn_sclk (hh : s.sys.halted = false) :
    turn .sclk s = .next
      { s with
        mix := drain s.cfg s.mix
        out := { s.out with pcm := s.out.pcm ++ [(drain s.cfg s.mix).pcmOut] } } := by
  rw [turn, aDrain, hh, if_neg Bool.false_ne_true]

/-- Settles O34, by the two cases of a drain. -/
theorem drainEmitsOneSamplePerSclk : Obligations.DrainEmitsOneSamplePerSclk := by
  intro s
  refine ⟨fun hh => ?_, fun hh hq => ?_, fun hh hq => ?_⟩
  · rw [turn, aDrain, if_pos hh]
  · rw [turn_sclk hh, drain_of_nonempty (by bv_omega)]
  · rw [turn_sclk hh, drain_of_empty (by bv_omega)]

/-! ### The production commands -/

/-- The state of a sample-step that has dropped its sample (42_audio.md R194). -/
def State.droppedSample (s : State) (m : Mix) : State :=
  ({ s with mix := m } : State).setSticky stickyOverrun

/-- A production command (42_audio.md R192 to R195): the job it is under way as, by MX_LEFT and MX_DROP,
and what it answers at the end, by MX_DROP. -/
structure Production where
  job : (left drop : Word) → Job
  answer : (drop : Word) → Response

/-- MIXT that has read Q_FREE = `k`. -/
def Production.mixt (k : Word) : Production where
  job left _ := .mixt k left
  answer _ := ⟨.ok, k.setWidth 64⟩

/-- MIXD. -/
def Production.mixd : Production where
  job left drop := .mixd left drop
  answer drop := if drop = 0 then ⟨.ok, 0⟩ else ⟨.bufferOverrun, drop.setWidth 64⟩

/-- MIXW with `n` samples to make. -/
def Production.mixw (n : Word) : Production where
  job left _ := .mixw n left
  answer _ := ⟨.ok, n.setWidth 64⟩

@[simp] theorem Production.mixd_answer_zero : Production.mixd.answer 0 = ⟨.ok, 0⟩ := rfl

theorem Production.mixd_answer_dropped {drop : Word} (h : drop ≠ 0) :
    Production.mixd.answer drop = ⟨.bufferOverrun, drop.setWidth 64⟩ := if_neg h

/-- The state in which a step of the command has left MX_LEFT = `left` and MX_DROP = `drop`. -/
def Production.after (p : Production) (left drop : Word) (s : State) : State :=
  if left = 0 then (s.setJob none).respond (p.answer drop).cond (p.answer drop).val
  else s.setJob (some (p.job left drop))

namespace Production

variable {p : Production} {left drop : Word}

@[simp] theorem after_zero (p : Production) (drop : Word) (s : State) :
    p.after 0 drop s = (s.setJob none).respond (p.answer drop).cond (p.answer drop).val := rfl

theorem after_more (h : left ≠ 0) : p.after left drop s = s.setJob (some (p.job left drop)) :=
  if_neg h

@[simp] theorem after_setJob (j : Option Job) : p.after left drop (s.setJob j) = p.after left drop s :=
  rfl

@[simp] theorem after_mix : (p.after left drop s).mix = s.mix := by
  unfold after
  split <;> rfl

theorem mixtLoop_eq (k left drop : Word) (s : State) :
    mixtLoop k left s = .next ((mixt k).after left drop s) := by
  by_cases h : left = 0
  · rw [h]
    rfl
  · rw [mixtLoop_more k h, after_more h]
    rfl

theorem mixdLoop_eq (left drop : Word) (s : State) :
    mixdLoop left drop s = .next (mixd.after left drop s) := by
  by_cases h : left = 0
  · subst h
    by_cases hd : drop = 0
    · subst hd
      rfl
    · rw [mixdLoop_dropped hd, after_zero, mixd_answer_dropped hd]
  · rw [mixdLoop_more h, after_more h]
    rfl

theorem mixwLoop_eq (n left drop : Word) (s : State) :
    mixwLoop n left s = .next ((mixw n).after left drop s) := by
  by_cases h : left = 0
  · rw [h]
    rfl
  · rw [mixwLoop_more n h, after_more h]
    rfl

/-! ### First steps -/

theorem exec_mixt (hh : s.sys.halted = false) :
    exec .mixt s =
      .next ((mixt (BitVec.ofNat 32 s.qFree)).after (BitVec.ofNat 32 s.qFree) 0 s) := by
  rw [exec, execMixt, command_legal hh rfl, mixtLoop_eq]

theorem exec_mixd (hh : s.sys.halted = false) (n : Half) :
    exec (.mixd n) s = .next (mixd.after (n.setWidth 32) 0 s) := by
  rw [exec, execMixd, command_legal hh rfl, mixdLoop_eq]

theorem exec_mixw (hh : s.sys.halted = false) (n : Half) :
    exec (.mixw n) s = .next ((mixw (n.setWidth 32)).after (n.setWidth 32) 0 s) := by
  rw [exec, execMixw, command_legal hh rfl, mixwLoop_eq]

/-! ### Sample-steps -/

/-- A sample-step that finds room stores its sample. -/
def Stores (p : Production) : Prop :=
  ∀ {s : State} {left drop : Word} {v : Sample} {m : Mix}, s.sys.halted = false →
    s.port.job = some (p.job left drop) → left ≠ 0 → s.qFull = false →
    mixOne s.cfg s.mix = some (v, m) →
    turn .host s = .next (p.after (left - 1) drop (s.made v m))

/-- A sample-step that finds the queue full drops its sample. -/
def Drops (p : Production) : Prop :=
  ∀ {s : State} {left drop : Word} {v : Sample} {m : Mix}, s.sys.halted = false →
    s.port.job = some (p.job left drop) → left ≠ 0 → s.qFull = true →
    mixOne s.cfg s.mix = some (v, m) →
    turn .host s = .next (p.after (left - 1) (drop + 1) (s.droppedSample m))

theorem stores_mixt (k : Word) : (mixt k).Stores := by
  intro s left drop v m hh hj hleft hroom e
  rw [turn_host_of_job hh hj, ← mixtLoop_eq]
  rcases continueMixt_cases k hleft s with ⟨hfull, _⟩ | ⟨_, hnone, _⟩ | ⟨_, v', m', e', h⟩
  · simp [hroom] at hfull
  · cases hnone.symm.trans e
  · cases e'.symm.trans e
    exact h

theorem stores_mixw (n : Word) : (mixw n).Stores := by
  intro s left drop v m hh hj hleft hroom e
  rw [turn_host_of_job hh hj, ← mixwLoop_eq]
  rcases continueMixw_cases n hleft s with ⟨hfull, _⟩ | ⟨_, hnone, _⟩ | ⟨_, v', m', e', h⟩
  · simp [hroom] at hfull
  · cases hnone.symm.trans e
  · cases e'.symm.trans e
    exact h

theorem stores_mixd : mixd.Stores := by
  intro s left drop v m hh hj hleft hroom e
  rw [turn_host_of_job hh hj, ← mixdLoop_eq]
  rcases continueMixd_cases drop hleft s with ⟨hnone, _⟩ | ⟨v', m', e', ⟨hfull, _⟩ | ⟨_, h⟩⟩
  · cases hnone.symm.trans e
  · simp [hroom] at hfull
  · cases e'.symm.trans e
    exact h

theorem drops_mixd : mixd.Drops := by
  intro s left drop v m hh hj hleft hfull e
  rw [turn_host_of_job hh hj, ← mixdLoop_eq]
  rcases continueMixd_cases drop hleft s with ⟨hnone, _⟩ | ⟨v', m', e', ⟨_, h⟩ | ⟨hroom, _⟩⟩
  · cases hnone.symm.trans e
  · cases e'.symm.trans e
    exact h
  · simp [hfull] at hroom

theorem after_pred (p : Production) (left drop : Word) (s : State) :
    p.after (left - 1) drop s =
      if left = 1 then (s.setJob none).respond (p.answer drop).cond (p.answer drop).val
      else s.setJob (some (p.job (left - 1) drop)) := by
  have h : left - 1 = 0 ↔ left = 1 := by bv_omega
  simp only [after, h]

end Production

/-- Settles O35, by the first step of each command. -/
theorem productionCommandsStart : Obligations.ProductionCommandsStart := by
  intro s hc hh hj
  have hnojob : s.setJob none = s := by rw [State.setJob, ← hj]
  have hfree : BitVec.ofNat 32 s.qFree = 0 ↔ s.qFree = 0 := by
    have hle : s.qFree ≤ s.cfg.qCap := Nat.sub_le ..
    have := hc.qCap_le
    bv_omega
  have h0 : (0 : Half).setWidth 32 = 0 := rfl
  refine ⟨fun hfull => ?_, fun hpos => ?_, ?_, ?_, fun n hn => ?_⟩
  · rw [Production.exec_mixt hh, hfree.2 hfull, Production.after_zero, hnojob]
    rfl
  · rw [Production.exec_mixt hh, Production.after_more (mt hfree.1 hpos.ne')]
    rfl
  · rw [Production.exec_mixd hh, h0, Production.after_zero, hnojob]
    rfl
  · rw [Production.exec_mixw hh, h0, Production.after_zero, hnojob]
    rfl
  · have hleft : n.setWidth 32 ≠ 0 := by bv_omega
    rw [Production.exec_mixd hh, Production.exec_mixw hh, Production.after_more hleft,
      Production.after_more hleft, BitVec.ofNat_toNat]
    exact ⟨rfl, rfl⟩

/-- Settles O60: the sample-step of each command, with its end written out. -/
theorem productionStepMixesOneSample : Obligations.ProductionStepMixesOneSample := by
  intro s v m hh e
  refine ⟨fun hroom => ?_, fun hfull left drop hj hleft hdrop => ?_⟩
  · have hroom := qFull_eq_false.2 hroom
    refine ⟨fun k left hj hleft => ?_, fun left drop hj hleft => ?_, fun n left hj hleft => ?_⟩
    · rw [Production.stores_mixt k (drop := 0) hh hj hleft hroom e, Production.after_pred]
      rfl
    · rw [Production.stores_mixd hh hj hleft hroom e, Production.after_pred]
      by_cases hd : drop = 0
      · subst hd
        rfl
      · rw [Production.mixd_answer_dropped hd, if_neg hd]
        rfl
    · rw [Production.stores_mixw n (drop := 0) hh hj hleft hroom e, Production.after_pred]
      rfl
  · have hd : drop + 1 ≠ 0 := by bv_omega
    rw [Production.drops_mixd hh hj hleft (by simpa [State.qFull] using hfull) e,
      Production.after_pred, Production.mixd_answer_dropped hd]
    rfl

/-! ### Production commands that nothing interrupts -/

theorem qFree_add_qCount (hm : mixOk s.cfg s.mix) :
    s.qFree + s.mix.qCount.toNat = s.cfg.qCap := by
  obtain ⟨_, _, _, _, hle, _⟩ := hm
  exact Nat.sub_add_cancel hle

theorem qFull_iff : s.qFull = true ↔ s.qFree = 0 := by
  simp [State.qFull, State.qFree, Nat.sub_eq_zero_iff_le]

/-- With every channel's table in SMP (20_memory.md R78), MixOne has a sample. -/
theorem mixOk.exists_sample {m : Mix} (h : mixOk c m) : ∃ v m', mixOne c m = some (v, m') := by
  obtain ⟨_, hchans, _⟩ := h
  exact mixOne_exists hchans

/-- The queued samples do not depend on the channels (10_state.md R43). -/
theorem mixOne_queued {m m' : Mix} {v : Sample} (e : mixOne c m = some (v, m')) :
    m'.qCount = m.qCount ∧ m'.queued c = m.queued c := by
  obtain ⟨_, _, _, _, rfl⟩ := mixOne_eq_some.1 e
  exact ⟨rfl, rfl⟩

namespace Production

variable {p : Production} {left drop : Word}

/-- What a production command with MX_DROP = `drop` has done to `s` once it has made the samples `made`,
which leave the channel file `chans`: those that fit are behind the old ones, the rest is counted. -/
structure Completed (p : Production) (s u : State) (drop : Word) (made : List Sample)
    (chans : List Channel) : Prop where
  chans : u.mix.chans = chans
  queued : u.mix.queued s.cfg = s.mix.queued s.cfg ++ made.take s.qFree
  qRd : u.mix.qRd = s.mix.qRd
  qCount : u.mix.qCount.toNat = min (s.mix.qCount.toNat + made.length) s.cfg.qCap
  job : u.port.job = none
  rsp : u.out.rsp = s.out.rsp ++ [p.answer (drop + BitVec.ofNat 32 (made.length - s.qFree))]
  sticky : u.sys.sticky =
    if made.length ≤ s.qFree then s.sys.sticky else s.sys.sticky ||| stickyOverrun

/-- With nothing left to make the command has answered. -/
theorem completed_nil (hm : mixOk s.cfg s.mix) :
    p.Completed s (p.after 0 drop s) drop [] s.mix.chans := by
  have := qFree_add_qCount hm
  rw [after_zero]
  refine ⟨rfl, by simp, rfl, ?_, rfl, by simp, by simp⟩
  show s.mix.qCount.toNat = min (s.mix.qCount.toNat + 0) s.cfg.qCap
  omega

/-- A stored sample stands in front of those made after it. -/
theorem Completed.of_stored {u : State} {v : Sample} {m : Mix} {vs : List Sample}
    {chans : List Channel} (hc : s.cfg.Valid) (hm : mixOk s.cfg s.mix) (hroom : s.qFull = false)
    (e : mixOne s.cfg s.mix = some (v, m)) (h : p.Completed (s.made v m) u drop vs chans) :
    p.Completed s u drop (v :: vs) chans := by
  obtain ⟨hcount, hqueued⟩ := mixOne_queued e
  obtain ⟨_, hrd, hmade⟩ := made_mixer hc hm hroom e
  have hlt := qFull_eq_false.1 hroom
  have hfree : s.qFree = (s.made v m).qFree + 1 := by
    show s.cfg.qCap - _ = s.cfg.qCap - _ + 1
    omega
  have hpush : (s.made v m).mix.queued s.cfg = s.mix.queued s.cfg ++ [v] := by
    rw [← hqueued]
    exact queued_enqueue hc v (hcount ▸ hlt)
  refine ⟨h.chans, ?_, h.qRd.trans hrd, ?_, h.job, ?_, ?_⟩
  · rw [hfree, List.take_succ_cons, ← List.singleton_append, ← List.append_assoc, ← hpush]
    exact h.queued
  · rw [List.length_cons, h.qCount, hmade]
    show min _ s.cfg.qCap = _
    omega
  · rw [hfree, List.length_cons, Nat.add_sub_add_right]
    exact h.rsp
  · rw [hfree, List.length_cons]
    simp only [Nat.add_le_add_iff_right]
    exact h.sticky

/-- A dropped sample is counted with those dropped after it. -/
theorem Completed.of_dropped {u : State} {v : Sample} {m : Mix} {vs : List Sample}
    {chans : List Channel} (hm : mixOk s.cfg s.mix) (hfull : s.qFull = true)
    (e : mixOne s.cfg s.mix = some (v, m))
    (h : p.Completed (s.droppedSample m) u (drop + 1) vs chans) :
    p.Completed s u drop (v :: vs) chans := by
  obtain ⟨hcount, hqueued⟩ := mixOne_queued e
  obtain ⟨_, _, _, hrd, _⟩ := mixOne_frame e
  have hfree : s.qFree = 0 := qFull_iff.1 hfull
  have hfree' : (s.droppedSample m).qFree = 0 := by
    rw [← hfree, State.qFree, State.qFree, ← hcount]
    rfl
  have hcap := qFree_add_qCount hm
  obtain ⟨hchans, hq, hrd', hn, hj, hrsp, hsticky⟩ := h
  rw [hfree'] at hq hrsp hsticky
  refine ⟨hchans, ?_, hrd'.trans hrd, ?_, hj, ?_, ?_⟩
  · rw [hfree, ← hqueued]
    exact hq
  · have hn : u.mix.qCount.toNat = min (m.qCount.toNat + vs.length) s.cfg.qCap := hn
    rw [hn, hcount, List.length_cons]
    omega
  · rw [hrsp, hfree, List.length_cons, Nat.sub_zero, Nat.sub_zero, Nat.add_comm vs.length,
      BitVec.ofNat_add, ← BitVec.add_assoc]
    rfl
  · rw [hsticky, hfree, List.length_cons, if_neg (Nat.not_succ_le_zero _)]
    show (if _ then s.sys.sticky ||| stickyOverrun else s.sys.sticky ||| stickyOverrun ||| _) = _
    split
    · rfl
    · rw [BitVec.or_assoc, BitVec.or_self]

/-- The sample-step of a command that stores its sample, between two states of the command. -/
theorem turn_after_stored {v : Sample} {m : Mix} (hstores : p.Stores) (hh : s.sys.halted = false)
    (hleft : left ≠ 0) (hroom : s.qFull = false) (e : mixOne s.cfg s.mix = some (v, m)) :
    turn .host (p.after left drop s) = .next (p.after (left - 1) drop (s.made v m)) := by
  rw [after_more hleft]
  exact hstores (s := s.setJob (some (p.job left drop))) hh rfl hleft hroom e

/-- The sample-step of a command that drops its sample, between two states of the command. -/
theorem turn_after_dropped {v : Sample} {m : Mix} (hdrops : p.Drops) (hh : s.sys.halted = false)
    (hleft : left ≠ 0) (hfull : s.qFull = true) (e : mixOne s.cfg s.mix = some (v, m)) :
    turn .host (p.after left drop s) =
      .next (p.after (left - 1) (drop + 1) (s.droppedSample m)) := by
  rw [after_more hleft]
  exact hdrops (s := s.setJob (some (p.job left drop))) hh rfl hleft hfull e

/-- As many turns of HOST as MX_LEFT complete the command, from a state in which every sample fits or
the command drops those that do not. -/
theorem repeatTurn_completed (hstores : p.Stores) {n : Nat} (hn : left.toNat = n)
    (hc : s.cfg.Valid) (hm : mixOk s.cfg s.mix) (hh : s.sys.halted = false)
    (hroom : n ≤ s.qFree ∨ p.Drops) :
    ∃ u made m, repeatTurn .host n (p.after left drop s) = .next u ∧
      mixTimes s.cfg n s.mix = some (made, m) ∧ p.Completed s u drop made m.chans := by
  induction n generalizing s left drop with
  | zero =>
    obtain rfl : left = 0 := BitVec.eq_of_toNat_eq hn
    exact ⟨_, [], s.mix, rfl, rfl, completed_nil hm⟩
  | succ n ih =>
    have hleft : left ≠ 0 := by bv_omega
    have hpred : (left - 1).toNat = n := by bv_omega
    obtain ⟨v, m, e⟩ := hm.exists_sample
    cases hq : s.qFull with
    | false =>
      obtain ⟨hm', _, hcount⟩ := made_mixer hc hm hq e
      have hroom' : n ≤ (s.made v m).qFree ∨ p.Drops := hroom.imp_left fun h => by
        show n ≤ s.cfg.qCap - (s.made v m).mix.qCount.toNat
        unfold State.qFree at h
        omega
      obtain ⟨u, vs, m', hrun, hmix, hdone⟩ :=
        ih (s := s.made v m) (drop := drop) hpred hc hm' hh hroom'
      obtain ⟨m'', hmix', hchans⟩ :=
        mixTimes_congr (c := s.cfg) (m := (s.made v m).mix) (m' := m) rfl rfl hmix
      refine ⟨u, v :: vs, m'', ?_, mixTimes_succ.2 ⟨v, m, vs, e, hmix', rfl⟩,
        .of_stored hc hm hq e (hchans ▸ hdone)⟩
      rw [repeatTurn, turn_after_stored hstores hh hleft hq e]
      exact hrun
    | true =>
      have hdrops : p.Drops := hroom.resolve_left fun h => by
        have := qFull_iff.1 hq
        omega
      obtain ⟨u, vs, m', hrun, hmix, hdone⟩ :=
        ih (s := s.droppedSample m) (drop := drop + 1) hpred hc (mixOk_mixOne hm e) hh (.inr hdrops)
      refine ⟨u, v :: vs, m', ?_, mixTimes_succ.2 ⟨v, m, vs, e, hmix, rfl⟩,
        .of_dropped hm hq e hdone⟩
      rw [repeatTurn, turn_after_dropped hdrops hh hleft hq e]
      exact hrun

end Production

theorem StateInv.toNat_qFree (h : StateInv s) : (BitVec.ofNat 32 s.qFree).toNat = s.qFree := by
  have hle : s.qFree ≤ s.cfg.qCap := Nat.sub_le ..
  have := h.cfg.qCap_le
  rw [BitVec.toNat_ofNat]
  omega

/-- The operand of MIXD and MIXW as MX_LEFT. -/
theorem toNat_widened (n : Half) : (n.setWidth 32).toNat = n.toNat :=
  BitVec.toNat_setWidth_of_le (by decide)

/-- Settles O36: a MIXT of Q_FREE samples, all of which fit. -/
theorem mixtFillsTheQueue : Obligations.MixtFillsTheQueue := by
  intro s h hh _
  have hfree := qFree_add_qCount h.mix
  obtain ⟨u, made, m, hrun, hmix, hdone⟩ :=
    Production.repeatTurn_completed (Production.stores_mixt (BitVec.ofNat 32 s.qFree)) (drop := 0)
      h.toNat_qFree h.cfg h.mix hh (.inl le_rfl)
  have hlen : made.length = s.qFree := mixTimes_length hmix
  refine ⟨_, u, made, m, Production.exec_mixt hh, hrun, hmix, hdone.chans, ?_, hdone.job, ?_,
    hdone.qRd, hlen, ?_⟩
  · have hval : (BitVec.ofNat 32 s.qFree).setWidth 64 = BitVec.ofNat 64 s.qFree := by
      have hword := h.toNat_qFree
      refine BitVec.eq_of_toNat_eq ?_
      rw [BitVec.toNat_setWidth, hword, BitVec.toNat_ofNat]
    rw [hdone.rsp, ← hval]
    rfl
  · rw [hdone.qCount, hlen]
    omega
  · rw [hdone.queued, List.take_of_length_le hlen.le]

/-- Settles O37: a MIXD run, with the samples that do not fit counted in MX_DROP. -/
theorem mixdDropsExactlyTheOverflow : Obligations.MixdDropsExactlyTheOverflow := by
  intro s n h hh _
  obtain ⟨u, made, m, hrun, hmix, hdone⟩ :=
    Production.repeatTurn_completed (drop := 0) Production.stores_mixd (toNat_widened n) h.cfg
      h.mix hh (.inr Production.drops_mixd)
  have hlen : made.length = n.toNat := mixTimes_length hmix
  obtain ⟨hchans, hqueued, hrd, hcount, hjob, hrsp, hsticky⟩ := hdone
  rw [hlen] at hcount hrsp hsticky
  refine ⟨_, u, made, m, Production.exec_mixd hh n, hrun, hmix, hchans, hlen, hqueued, hjob, hrd,
    hcount, fun hle => ⟨?_, ?_⟩, fun hlt => ⟨?_, ?_⟩⟩
  · rw [hrsp, Nat.sub_eq_zero_of_le hle]
    rfl
  · rw [hsticky, if_pos hle]
  · have hn := n.isLt
    have hval : BitVec.setWidth 64 (0 + BitVec.ofNat 32 (n.toNat - s.qFree)) =
        BitVec.ofNat 64 (n.toNat - s.qFree) := by bv_omega
    rw [hrsp, Production.mixd_answer_dropped (by bv_omega), hval]
  · rw [hsticky, if_neg (not_le.2 hlt)]

/-- A full queue holds MIXW (42_audio.md R195). -/
theorem turn_mixw_of_full {n left : Word} (hh : s.sys.halted = false)
    (hj : s.port.job = some (.mixw n left)) (hleft : left ≠ 0) (hfull : s.qFull = true) :
    turn .host s = .next s := by
  rw [turn_host_of_job hh hj]
  rcases continueMixw_cases n hleft s with ⟨_, e⟩ | ⟨hroom, _⟩ | ⟨hroom, _⟩
  · exact e
  · simp [hfull] at hroom
  · simp [hfull] at hroom

/-- A drain of a full queue makes room for one sample of a MIXW (42_audio.md R195, R198). -/
theorem turn_mixw_after_drain {n left : Word} (h : StateInv s) (hh : s.sys.halted = false)
    (hj : s.port.job = some (.mixw n left)) (hfull : s.qFull = true) :
    ∃ t u v m, turn .sclk s = .next t ∧ turn .host t = .next u ∧
      mixOne t.cfg t.mix = some (v, m) ∧ u.mix = enqueue t.cfg v m ∧
      u.mix.qWr = s.mix.qWr + 1 ∧ u.mix.qCount.toNat = s.cfg.qCap := by
  have hm := mixOk_drain h.mix
  have hcount : (drain s.cfg s.mix).qCount.toNat + 1 = s.cfg.qCap := by
    have hcap := qFree_add_qCount h.mix
    have hfree := qFull_iff.1 hfull
    have hpos := h.cfg.qCap_pos
    rw [qCount_drain]
    omega
  obtain ⟨v, m, e⟩ := hm.exists_sample
  have ht := turn_sclk hh
  set t : State := { s with
    mix := drain s.cfg s.mix
    out := { s.out with pcm := s.out.pcm ++ [(drain s.cfg s.mix).pcmOut] } }
  have hroom : t.qFull = false := qFull_eq_false.2 (Nat.lt_of_succ_le hcount.le)
  have hu := Production.stores_mixw n (s := t) (drop := 0) hh hj (jobOk_mixw h.job hj) hroom e
  obtain ⟨_, _, hmade⟩ := made_mixer (s := t) h.cfg hm hroom e
  refine ⟨t, _, v, m, ht, hu, e, Production.after_mix, ?_, ?_⟩
  · obtain ⟨_, _, hwr, _⟩ := mixOne_frame e
    obtain ⟨_, _, _, hwr'⟩ := drain_frame s.cfg s.mix
    rw [Production.after_mix, ← hwr', ← hwr]
    rfl
  · rw [Production.after_mix, hmade]
    exact hcount

/-- Settles O38: on a full queue MIXW holds, a drain makes room for one sample, and a MIXW whose
samples all fit is a run. -/
theorem mixwWaitsForRoom : Obligations.MixwWaitsForRoom := by
  intro s h hh
  refine ⟨fun n left hj hfull => ⟨turn_mixw_of_full hh hj (jobOk_mixw h.job hj) hfull,
    turn_mixw_after_drain h hh hj hfull⟩, fun _ n hn => ?_⟩
  obtain ⟨u, made, m, hrun, hmix, hdone⟩ :=
    Production.repeatTurn_completed (drop := 0) (Production.stores_mixw (n.setWidth 32))
      (toNat_widened n) h.cfg h.mix hh (.inl hn)
  have hlen : made.length = n.toNat := mixTimes_length hmix
  refine ⟨_, u, made, m, Production.exec_mixw hh n, hrun, hmix, hdone.chans, hlen, ?_, hdone.job,
    ?_, ?_⟩
  · rw [hdone.queued, List.take_of_length_le (hlen.trans_le hn)]
  · have hval : (n.setWidth 32).setWidth 64 = BitVec.ofNat 64 n.toNat := by bv_omega
    rw [hdone.rsp, ← hval]
    rfl
  · have hcap := qFree_add_qCount h.mix
    rw [hdone.qCount, hlen]
    omega

end Sys2Proof.Machine
end

section
/-! PROOFS. 43_input.md: INSAMPLE (O39), the sampling operation button by button (O40), the debounce
property over a sequence of samples (O41), and who may write the snapshot (O53). -/

namespace Sys2Proof.Machine

variable {s t : State}

/-! ### INSAMPLE -/

/-- The registers of INP after `Sample()` (43_input.md R211): they depend on nothing but the old ones,
the configuration and the input levels. -/
theorem sampleInputs_inp (s : State) :
    (sampleInputs s).inp =
      if s.env.btnValid then s.inp.sampled s.cfg s.env.btnRaw
      else { s.inp with press := 0, rel := 0 } := by
  rcases sampleInputs_cases s with ⟨hv, e⟩ | ⟨hv, e⟩ <;> rw [e, hv] <;> rfl

/-- Where INSAMPLE is legal it follows its own rule (43_input.md R212). -/
theorem exec_insample (hh : s.sys.halted = false) (hp : s.fts.phase = .idle) :
    exec .insample s =
      if s.env.btnValid then done ((sampleInputs s).inp.level.setWidth 64) (sampleInputs s)
      else raise .inputReadFailure ((sampleInputs s).inp.level.setWidth 64) (sampleInputs s) := by
  have hl : legal .insample s = true := by simp [legal, hp]
  rw [exec, execInsample, command_legal hh hl]

/-- Settles O39: the two branches of the rule, where a failed read keeps IN_LEVEL (43_input.md R216),
and the phases in which INSAMPLE is not legal. -/
theorem insampleAnswersTheLevel : Obligations.InsampleAnswersTheLevel := by
  refine ⟨by decide, fun s hh => ⟨fun hp hv => ?_, fun hp hv => ?_, fun hp => ?_⟩⟩
  · rw [exec_insample hh hp, if_pos hv]
    rfl
  · have hlevel : (sampleInputs s).inp.level = s.inp.level := by
      rw [sampleInputs_inp, hv]
      rfl
    rw [exec_insample hh hp, hv, hlevel]
    rfl
  · exact exec_illegal hh (by simp [legal, hp])

/-! ### One sample of one button (43_input.md R211) -/

section Button

variable {c : Config} {p : Inp} {raw : BitVec 32} {b : Nat} {cnt : BitVec 16}

theorem Inp.count_eq (h : p.dbCnt[b]? = some cnt) : p.count b = cnt.toNat := by
  rw [Inp.count, h]
  rfl

theorem Inp.differs_iff : p.differs raw b = true ↔ raw.getLsbD b ≠ p.level.getLsbD b :=
  bne_iff_ne

theorem Inp.flips_iff {win : Nat} :
    p.flips win raw b = true ↔ raw.getLsbD b ≠ p.level.getLsbD b ∧ win ≤ p.count b + 1 := by
  rw [Inp.flips, Bool.and_eq_true, Inp.differs_iff, decide_eq_true_iff]

/-- The level of a button of the block after a sample: a flip of a line that differs takes the raw
state. -/
theorem sampled_level_eq_ite (hc : c.Valid) (hb : b < c.nBtn) :
    (p.sampled c raw).level.getLsbD b =
      if raw.getLsbD b ≠ p.level.getLsbD b ∧ c.dbWin ≤ p.count b + 1 then raw.getLsbD b
      else p.level.getLsbD b := by
  rw [sampled_level p c raw b hc.nBtn_le, decide_eq_true hb, Bool.true_and]
  by_cases h : p.flips c.dbWin raw b = true
  · have hflip := Inp.flips_iff.1 h
    rw [h, if_pos hflip, Bool.xor_true]
    exact (Bool.eq_not.2 hflip.1).symm
  · rw [if_neg (mt Inp.flips_iff.2 h), Bool.eq_false_iff.2 h, Bool.xor_false]

/-- The counter after a sample: one more while a differing line has not reached the window. -/
theorem nextCount_eq_ite {win : Nat} :
    p.nextCount win raw b =
      if raw.getLsbD b ≠ p.level.getLsbD b ∧ p.count b + 1 < win then
        BitVec.ofNat 16 (p.count b + 1)
      else 0 := by
  have hcounts : (p.differs raw b && !p.flips win raw b) = true ↔
      raw.getLsbD b ≠ p.level.getLsbD b ∧ p.count b + 1 < win := by
    rw [Bool.and_eq_true, Inp.differs_iff, Bool.not_eq_true', ← Bool.not_eq_true, Inp.flips_iff]
    exact and_congr_right fun hne => by simp [hne]
  exact if_congr hcounts rfl rfl

end Button

/-- Settles O40: the two branches of `Sample()` for the frame, then the level, the two edges and the
counter of one button. -/
theorem sampleDebouncesEachButton : Obligations.SampleDebouncesEachButton := by
  intro s h
  refine ⟨fun hv => ?_, fun hv => ⟨⟨s.inp.sampled s.cfg s.env.btnRaw, if_pos hv,
    sampled_dbCnt_length ..⟩, fun b hb cnt hcnt => ?_⟩⟩
  · rw [sampleInputs, hv]
    rfl
  · have hb32 : b < 32 := hb.trans_le h.cfg.nBtn_le
    have hlevel := sampled_level_eq_ite (p := s.inp) (raw := s.env.btnRaw) h.cfg hb
    rw [Inp.count_eq hcnt] at hlevel
    rw [sampleInputs_inp, if_pos hv]
    refine ⟨hlevel, ?_, ?_, ?_⟩
    · rw [sampled_press, hlevel, decide_eq_true hb32, Bool.true_and]
    · rw [sampled_rel, hlevel, decide_eq_true hb32, Bool.true_and]
    · rw [sampled_dbCnt _ _ _ hb, nextCount_eq_ite, Inp.count_eq hcnt, BitVec.ofNat_add,
        BitVec.ofNat_toNat, BitVec.setWidth_eq]
      rfl

/-! ### A sequence of samples (43_input.md R213, R214) -/

section Line

variable {c : Config} {p : Inp} {raw : BitVec 32} {b : Nat}

theorem sampled_count (hb : b < c.nBtn) :
    (p.sampled c raw).count b = (p.nextCount c.dbWin raw b).toNat :=
  Inp.count_eq (sampled_dbCnt p c raw hb)

/-- A sample that agrees with the logical state keeps the level and resets the counter. -/
theorem sampled_of_agrees (hc : c.Valid) (hb : b < c.nBtn)
    (h : raw.getLsbD b = p.level.getLsbD b) :
    (p.sampled c raw).level.getLsbD b = p.level.getLsbD b ∧ (p.sampled c raw).count b = 0 := by
  rw [sampled_level_eq_ite hc hb, sampled_count hb, nextCount_eq_ite, if_neg fun hf => hf.1 h,
    if_neg fun hf => hf.1 h]
  exact ⟨rfl, rfl⟩

/-- A differing sample short of the window keeps the level and is counted. -/
theorem sampled_of_counts (hc : c.Valid) (hb : b < c.nBtn)
    (h : raw.getLsbD b ≠ p.level.getLsbD b) (hwin : p.count b + 1 < c.dbWin) :
    (p.sampled c raw).level.getLsbD b = p.level.getLsbD b ∧
      (p.sampled c raw).count b = p.count b + 1 := by
  rw [sampled_level_eq_ite hc hb, sampled_count hb, nextCount_eq_ite,
    if_neg fun hf => absurd hf.2 (Nat.not_le_of_lt hwin), if_pos ⟨h, hwin⟩]
  exact ⟨rfl, BitVec.toNat_ofNat .. ▸ Nat.mod_eq_of_lt (hwin.trans hc.dbWin_lt)⟩

/-- A differing sample that fills the window flips the level to the raw state. -/
theorem sampled_of_flips (hc : c.Valid) (hb : b < c.nBtn)
    (h : raw.getLsbD b ≠ p.level.getLsbD b) (hwin : c.dbWin ≤ p.count b + 1) :
    (p.sampled c raw).level.getLsbD b = raw.getLsbD b := by
  rw [sampled_level_eq_ite hc hb, if_pos ⟨h, hwin⟩]

/-- Line `b` with `behind` differing samples behind it never differs from `level` for a whole window:
the premise of the debounce property (43_input.md R213). -/
def Bounces (win b : Nat) (level : Bool) (behind : Nat) (raws : List (BitVec 32)) : Prop :=
  ∀ i k, i + k ≤ raws.length → k = (if i = 0 then win - behind else win) →
    ∃ j raw, i ≤ j ∧ j < i + k ∧ raws[j]? = some raw ∧ raw.getLsbD b = level

section Bounces

variable {win behind : Nat} {level : Bool} {raws : List (BitVec 32)}

/-- The windows of the tail, with no run behind it, are windows of the whole list. -/
theorem Bounces.tail (h : Bounces win b level behind (raw :: raws)) :
    Bounces win b level 0 raws := by
  intro i k hik hk
  have hk : k = win := by rw [hk, Nat.sub_zero, ite_self]
  obtain ⟨j, r, hij, hjk, hj, hr⟩ := h (i + 1) k (by simp; omega) (by simpa using hk)
  obtain ⟨j, rfl⟩ : ∃ j', j = j' + 1 := ⟨j - 1, by omega⟩
  exact ⟨j, r, by omega, by omega, by simpa using hj, hr⟩

/-- The window at the start holds a sample that agrees, so a first sample that differs is not its last
one. -/
theorem Bounces.short_of_differs (h : Bounces win b level behind (raw :: raws))
    (hne : raw.getLsbD b ≠ level) : behind + 1 < win := by
  by_contra hwin
  obtain ⟨j, r, -, hjk, hj, hr⟩ := h 0 (win - behind) (by simp; omega) rfl
  obtain rfl : j = 0 := by omega
  exact hne (Option.some.inj hj ▸ hr)

/-- A first sample that differs joins the run behind. -/
theorem Bounces.tail_of_differs (h : Bounces win b level behind (raw :: raws))
    (hne : raw.getLsbD b ≠ level) : Bounces win b level (behind + 1) raws := by
  have hshort := h.short_of_differs hne
  intro i k hik hk
  by_cases hi : i = 0
  · subst hi
    obtain ⟨j, r, -, hjk, hj, hr⟩ := h 0 (k + 1) (by simpa using hik) (by simp at hk ⊢; omega)
    cases j with
    | zero => exact absurd (Option.some.inj hj ▸ hr) hne
    | succ j => exact ⟨j, r, by omega, by omega, hj, hr⟩
  · exact h.tail i k hik (by simpa [hi] using hk)

end Bounces

/-- A line that bounces makes no transition. -/
theorem sampleSeq_level_of_bounces (hc : c.Valid) (hb : b < c.nBtn) {raws : List (BitVec 32)}
    (h : Bounces c.dbWin b (p.level.getLsbD b) (p.count b) raws) (n : Nat) :
    (sampleSeq c (raws.take n) p).level.getLsbD b = p.level.getLsbD b := by
  induction raws generalizing p n with
  | nil => rw [List.take_nil, sampleSeq_nil]
  | cons raw raws ih =>
    cases n with
    | zero => rfl
    | succ n =>
      rw [List.take_succ_cons, sampleSeq_cons]
      by_cases hraw : raw.getLsbD b = p.level.getLsbD b
      · obtain ⟨hlevel, hcount⟩ := sampled_of_agrees hc hb hraw
        rw [ih (by rw [hlevel, hcount]; exact h.tail), hlevel]
      · obtain ⟨hlevel, hcount⟩ := sampled_of_counts hc hb hraw (h.short_of_differs hraw)
        rw [ih (by rw [hlevel, hcount]; exact h.tail_of_differs hraw), hlevel]

/-- A line that agrees with its level makes no transition while the raw state stays. -/
theorem sampleTimes_level_of_agrees (hc : c.Valid) (hb : b < c.nBtn) (n : Nat)
    (h : raw.getLsbD b = p.level.getLsbD b) :
    (sampleTimes c raw n p).level.getLsbD b = raw.getLsbD b := by
  induction n generalizing p with
  | zero => exact h.symm
  | succ n ih => exact ih (h.trans (sampled_of_agrees hc hb h).1.symm)

/-- A line that differs from its level flips when the differing samples fill the window. -/
theorem sampleTimes_level_of_differs (hc : c.Valid) (hb : b < c.nBtn) (n : Nat)
    (h : raw.getLsbD b ≠ p.level.getLsbD b) (hcnt : p.count b < c.dbWin) :
    (sampleTimes c raw n p).level.getLsbD b =
      if p.count b + n < c.dbWin then p.level.getLsbD b else raw.getLsbD b := by
  induction n generalizing p with
  | zero => exact (if_pos hcnt).symm
  | succ n ih =>
    by_cases hwin : p.count b + 1 < c.dbWin
    · obtain ⟨hlevel, hcount⟩ := sampled_of_counts hc hb h hwin
      rw [sampleTimes, ih (hlevel ▸ h) (hcount ▸ hwin), hlevel, hcount, Nat.add_right_comm,
        Nat.add_assoc]
    · have hflip := sampled_of_flips hc hb h (Nat.le_of_not_lt hwin)
      rw [sampleTimes, sampleTimes_level_of_agrees hc hb n hflip.symm, if_neg (by omega)]

end Line

/-- Settles O41, by `sampleSeq_level_of_bounces` and `sampleTimes_level_of_differs`. -/
theorem lineFlipsExactlyAtTheWindow : Obligations.LineFlipsExactlyAtTheWindow := by
  intro c p b cnt hc hp hb hcnt
  rw [← Inp.count_eq hcnt]
  refine ⟨fun raws hraws n _ => sampleSeq_level_of_bounces hc hb hraws n, fun raw n hne => ?_⟩
  obtain ⟨-, -, hbelow, -⟩ := hp
  have hlt : p.count b < c.dbWin := by
    rw [Inp.count_eq hcnt]
    exact hbelow cnt (List.mem_of_getElem? hcnt)
  exact sampleTimes_level_of_differs hc hb n hne hlt

/-! ### Who writes the registers of INP (43_input.md R217) -/

/-- A turn taken in `s` leaves INP as it was, if it has a next state. -/
def KeepsInp (s : State) (r : Result) : Prop := ∀ t, r = .next t → t.inp = s.inp

theorem keepsInp_next (h : t.inp = s.inp) : KeepsInp s (.next t) := by
  rintro _ ⟨⟩
  exact h

theorem keepsInp_fault (f : Fault) : KeepsInp s (.fault f) := fun _ h => by cases h

theorem keepsInp_refused (r : Refusal) : KeepsInp s (.refused r) := fun _ h => by cases h

/-- The loop of a production command writes the port and RSP only. -/
theorem LoopAnswer.keepsInp {u : State} {left : Word} {j : Job} {r : Result}
    (h : LoopAnswer u left j r) (hu : u.inp = s.inp) : KeepsInp s r := by
  cases h <;> exact keepsInp_next hu

theorem withSample_keepsInp {use : Sample → State → Result}
    (h : ∀ v m, KeepsInp s (use v { s with mix := m })) : KeepsInp s (withSample s use) := by
  rcases withSample_cases s use with ⟨v, m, _, e⟩ | ⟨_, e⟩ <;> rw [e]
  · exact h v m
  · exact keepsInp_fault _

/-- No command under way samples the inputs: INSAMPLE ends in its first step. -/
theorem continueJob_keepsInp (j : Job) : KeepsInp s (continueJob j s) := by
  cases j with
  | swap =>
    rcases continueSwap_cases s with ⟨_, e⟩ | ⟨_, _, e⟩ | ⟨_, _, e⟩ <;>
      rw [continueJob, e] <;> exact keepsInp_next rfl
  | dwait =>
    rcases continueDwait_cases s with ⟨_, e⟩ | ⟨_, _, e⟩ | ⟨_, _, e⟩ <;>
      rw [continueJob, e] <;> exact keepsInp_next rfl
  | mixt k left =>
    rw [continueJob, continueMixt]
    split_ifs
    · exact (mixtLoop_answer ..).keepsInp rfl
    · exact keepsInp_fault _
    · exact withSample_keepsInp fun v m => (mixtLoop_answer ..).keepsInp rfl
  | mixd left drop =>
    rw [continueJob, continueMixd]
    split_ifs
    · exact (mixdLoop_answer ..).keepsInp rfl
    · refine withSample_keepsInp fun v m => ?_
      split_ifs <;> exact (mixdLoop_answer ..).keepsInp rfl
  | mixw n left =>
    rw [continueJob, continueMixw]
    split_ifs
    · exact (mixwLoop_answer ..).keepsInp rfl
    · exact keepsInp_next rfl
    · exact withSample_keepsInp fun v m => (mixwLoop_answer ..).keepsInp rfl

/-- A legal command leaves INP alone, or is INSAMPLE in Idle. -/
theorem Effect.inp_cases {i : Instr} (h : Effect s i t) :
    t.inp = s.inp ∨ (i = .insample ∧ s.fts.phase = .idle ∧ t.inp = (sampleInputs s).inp) := by
  cases h with
  | insample hp => exact .inr ⟨rfl, hp, rfl⟩
  | answer | draw | swap | holdSwap | holdDwait | dclr | dreset | channel | nothing | mixt | mixd
  | mixw | run | cbret | panic => exact .inl rfl

theorem exec_inp_cases {i : Instr} (e : exec i s = .next t) :
    t.inp = s.inp ∨ (i = .insample ∧ s.fts.phase = .idle ∧ t.inp = (sampleInputs s).inp) := by
  rcases exec_cases i s with ⟨_, e'⟩ | ⟨_, _, e'⟩ | ⟨_, _, u, he, e'⟩ <;> cases e.symm.trans e'
  · exact .inl rfl
  · exact .inl rfl
  · exact he.inp_cases

/-- Everything a turn of the agent `e` can do to INP: nothing, or `Sample()` in S_SAMPLE
(44_scheduler.md R240) or in INSAMPLE (43_input.md R212). -/
inductive InpStep (e : Event) (s t : State) : Prop
  | kept : t.inp = s.inp → InpStep e s t
  | scheduled : e = .sched → s.fts.phase = .sampling → t.inp = (sampleInputs s).inp →
      InpStep e s t
  | commanded (rest : List Word) : e = .host → s.fts.phase = .idle →
      decode s.port.cmd = .command .insample rest → t.inp = (sampleInputs s).inp → InpStep e s t

theorem KeepsInp.inpStep {e : Event} {r : Result} (h : KeepsInp s r) (he : r = .next t) :
    InpStep e s t :=
  .kept (h t he)

theorem hostTurn_inpStep (e : hostTurn s = .next t) : InpStep .host s t := by
  rcases hostTurn_cases s with
    ⟨_, e'⟩ | ⟨_, j, _, e'⟩ | ⟨_, _, ⟨i, rest, hd, e'⟩ | ⟨_, rest, _, e'⟩ | ⟨_, e'⟩⟩
  · cases e.symm.trans e'
    exact .kept rfl
  · exact (continueJob_keepsInp j).inpStep (e'.symm.trans e)
  · rcases exec_inp_cases (e'.symm.trans e) with hinp | ⟨rfl, hp, hinp⟩
    · exact .kept hinp
    · rw [sampleInputs_inp] at hinp
      exact .commanded rest rfl hp hd (hinp.trans (sampleInputs_inp s).symm)
  · cases e.symm.trans e'
    exact .kept rfl
  · cases e.symm.trans e'
    exact .kept rfl

theorem sTopup_keepsInp (s : State) : KeepsInp s (sTopup s) := by
  rcases sTopup_cases s with ⟨_, e⟩ | ⟨_, _, e⟩ | ⟨_, v, m, _, e⟩ <;> rw [e]
  · exact keepsInp_next rfl
  · exact keepsInp_fault _
  · exact keepsInp_next rfl

theorem sNext_keepsInp (s : State) : KeepsInp s (sNext s) := by
  rcases sNext_cases s with ⟨_, e⟩ | ⟨_, e⟩ <;> rw [e]
  · exact keepsInp_next rfl
  · exact keepsInp_refused _

theorem schedTurn_inpStep (e : schedTurn s = .next t) : InpStep .sched s t := by
  rcases schedTurn_cases s with
    e' | ⟨_, _, ⟨hp, e'⟩ | ⟨_, _, _, e'⟩ | ⟨_, _, e'⟩ | ⟨_, _, _, e'⟩⟩
  · cases e.symm.trans e'
    exact .kept rfl
  · cases e.symm.trans e'
    exact .scheduled rfl hp rfl
  · cases e.symm.trans e'
    exact .kept rfl
  · exact (sTopup_keepsInp s).inpStep (e'.symm.trans e)
  · exact (sNext_keepsInp s).inpStep (e'.symm.trans e)

@[simp] theorem dBegin_inp (s : State) : (dBegin s).inp = s.inp := by
  rcases dBegin_cases s with ⟨_, _, e⟩ | ⟨_, e⟩ <;> simp [e]

@[simp] theorem aDrain_inp (s : State) : (aDrain s).inp = s.inp := by
  rcases aDrain_cases s with ⟨_, e⟩ | ⟨_, e⟩ <;> simp [e]

@[simp] theorem countTimeout_inp (s : State) : (countTimeout s).inp = s.inp := by
  rcases countTimeout_cases s with ⟨_, e⟩ | ⟨_, _, _, e⟩ | ⟨_, _, _, e⟩ <;> simp [e]

theorem dWord_keepsInp (s : State) : KeepsInp s (dWord s) := by
  rcases dWord_cases s with ⟨_, e⟩ | ⟨_, _, e⟩ | ⟨_, _, e⟩ <;> rw [e]
  · exact keepsInp_next rfl
  · exact keepsInp_fault _
  · exact keepsInp_next rfl

theorem tbStep_keepsInp (s : State) : KeepsInp s (tbStep s) := by
  rcases tbStep_cases s with ⟨_, e⟩ | ⟨_, e⟩ <;> rw [e]
  · exact keepsInp_next (countTimeout_inp _)
  · exact keepsInp_refused _

/-- Only HOST and SCHED reach INP: ENV sets the raw lines, not the registers. -/
theorem turn_inpStep {e : Event} (h : turn e s = .next t) : InpStep e s t := by
  cases e with
  | host => exact hostTurn_inpStep h
  | sched => exact schedTurn_inpStep h
  | dword => exact (dWord_keepsInp s).inpStep h
  | tb => exact (tbStep_keepsInp s).inpStep h
  | vsync => cases h; exact .kept (dBegin_inp s)
  | sclk => cases h; exact .kept (aDrain_inp s)
  | panelAck level => cases h; exact .kept rfl
  | btnRaw levels => cases h; exact .kept rfl
  | btnValid level => cases h; exact .kept rfl

/-- Settles O53, by `turn_inpStep`: a turn that changes INP is one of the two that sample, and taking
the agenda entry first is nothing to `Sample()`. -/
theorem snapshotChangesOnlyWhenSampled : Obligations.SnapshotChangesOnlyWhenSampled := by
  intro s t e hne
  have hpop : (sampleInputs (popEvent s)).inp = (sampleInputs s).inp :=
    (sampleInputs_inp (popEvent s)).trans (sampleInputs_inp s).symm
  cases turn_inpStep (step_eq_next.1 e).2 with
  | kept hinp => exact absurd hinp hne
  | scheduled hev hp hinp => exact ⟨hinp.trans hpop, .inl ⟨hev, hp⟩⟩
  | commanded rest hev hp hd hinp => exact ⟨hinp.trans hpop, .inr ⟨hev, hp, rest, hd⟩⟩

end Sys2Proof.Machine
end

section
/-! PROOFS. 44_scheduler.md: what the scheduler state refuses (O7), RUN, CBRET and PANIC (O42 to O44),
the register read (O45), the scheduler's own steps (O48 to O50), and the order of the phases (O51). -/

namespace Sys2Proof.Machine

variable {s t : State}

/-! ### What the scheduler state refuses -/

/-- Settles O7: each of the four commands is not legal there (44_scheduler.md R247). -/
theorem disallowedPhaseIsIllegal : Obligations.DisallowedPhaseIsIllegal := by
  intro s hh
  refine ⟨fun hp => ⟨?_, ?_⟩, fun hbusy => ?_, fun hc v => ?_⟩
  · exact exec_illegal hh (by simp [legal, hp])
  · exact exec_illegal hh (by simp [legal, hp])
  · have hl : legal .run s = false := by
      rcases hbusy with hp | hc
      · simp [legal, hp]
      · simp [legal, hc]
    exact exec_illegal hh hl
  · exact exec_illegal hh (by simp [legal, hc])

/-! ### RUN, CBRET, PANIC and RDREG -/

/-- Settles O42: in Idle with no request pending RUN is legal and follows its rule; elsewhere it is
refused as in O7. -/
theorem runRequestsInit : Obligations.RunRequestsInit := by
  refine ⟨by decide, fun s hh => ?_⟩
  obtain ⟨_, hrefused, _⟩ := disallowedPhaseIsIllegal s hh
  refine ⟨fun ⟨hp, hc⟩ => ?_, hrefused⟩
  have hl : legal .run s = true := by simp [legal, hp, hc]
  rw [exec, execRun, command_legal hh hl]
  rfl

/-- With a request pending CBRET is the return of that callback (44_scheduler.md R233). -/
theorem exec_cbret {v : Word} (hh : s.sys.halted = false) (hc : s.fts.cbreq ≠ .none) :
    exec (.cbret v) s = .next ({ s with fts := callbackReturned v s.fts }.respond .ok 0) := by
  have hl : legal (.cbret v) s = true := by simp [legal, hc]
  rw [exec, execCbret, command_legal hh hl]
  rfl

theorem callbackReturned_init {f : Fts} (v : Word) (h : f.cbreq = .init) :
    callbackReturned v f = { f with cbreq := .none, phase := .sampling } := by
  simp [callbackReturned, h]

theorem callbackReturned_update {f : Fts} (v : Word) (h : f.cbreq = .update) :
    callbackReturned v f = { f with gctl := v, cbreq := .draw, phase := .drawing } := by
  simp [callbackReturned, h]

theorem callbackReturned_draw {f : Fts} (v : Word) (h : f.cbreq = .draw) :
    callbackReturned v f = { f with cbreq := .none, phase := .presenting } := by
  simp [callbackReturned, h]

/-- Settles O43: one case for each request that can be pending, and none pending as in O7. -/
theorem cbretEndsTheCallback : Obligations.CbretEndsTheCallback := by
  intro s v hh
  obtain ⟨_, _, hrefused⟩ := disallowedPhaseIsIllegal s hh
  have hheader : header Opcode.cbret.number 0 0 = 0x41000000 := by decide
  refine ⟨congrArg (· :: [v]) hheader, fun hc => ?_, fun hc => ?_, fun hc => ?_,
    fun hc => hrefused hc v⟩
  · rw [exec_cbret hh (by simp [hc]), callbackReturned_init v hc]
  · rw [exec_cbret hh (by simp [hc]), callbackReturned_update v hc]
  · rw [exec_cbret hh (by simp [hc]), callbackReturned_draw v hc]

/-- Settles O44: PANIC is legal in every phase, and it leaves a halted block, which gives no command
an effect (60_exceptions.md R266). -/
theorem panicHaltsTheDevice : Obligations.PanicHaltsTheDevice := by
  refine ⟨by decide, fun s hh => ?_⟩
  have hpanic : exec .panic s =
      .next ({ s with sys := { s.sys with halted := true } }.respond .ok 0) := by
    rw [exec, execPanic, command_legal hh rfl]
    rfl
  refine ⟨hpanic, fun t i e => ?_⟩
  cases e.symm.trans hpanic
  exact exec_halted rfl

/-- Settles O45: a register number makes RDREG legal, and its rule answers the register; any other
number is an operand out of range (O6). -/
theorem rdregAnswersTheRegister : Obligations.RdregAnswersTheRegister := by
  intro s n hh
  obtain ⟨_, _, _, _, _, hrange⟩ := outOfRangeOperandIsIllegal s hh
  refine ⟨fun v hv => ?_, hrange n⟩
  rw [exec, execRdreg, command_legal hh (by simp [legal, hv]), hv]
  rfl

/-! ### The turn of SCHED with no HOST command under way, phase by phase -/

theorem turn_sched_sampling (hh : s.sys.halted = false) (hj : s.port.job = none)
    (hp : s.fts.phase = .sampling) : turn .sched s = .next (sSample s) := by
  simp [turn, schedTurn, hh, hj, hp]

theorem turn_sched_presenting (hh : s.sys.halted = false) (hj : s.port.job = none)
    (hp : s.fts.phase = .presenting) :
    turn .sched s = if presentEnabled s then .next (sPresent s) else .next s := by
  simp [turn, schedTurn, hh, hj, hp]

theorem turn_sched_waiting (hh : s.sys.halted = false) (hj : s.port.job = none)
    (hp : s.fts.phase = .waitingForVsync) :
    turn .sched s =
      if s.fts.topupN ≠ 0 then sTopup s else if paceOver s then sNext s else .next s := by
  simp [turn, schedTurn, hh, hj, hp]

/-- Settles O48: `Sample()` leaves FTS and TIME as they are, so the time stamps S_SAMPLE takes are
those of the state it starts from. -/
theorem samplingStepRequestsUpdate : Obligations.SamplingStepRequestsUpdate := by
  intro s hh hj hp
  rw [turn_sched_sampling hh hj hp, sSample, sampleInputs_fts, sampleInputs_time]

theorem presentEnabled_iff (s : State) :
    presentEnabled s = true ↔ s.dos.dstate = .idle ∧ s.dos.fault = false := by
  simp [presentEnabled]

/-- Settles O49: the two cases are S_PRESENT enabled and not enabled. -/
theorem presentingStepSwapsWhenTheSequencerIsFree :
    Obligations.PresentingStepSwapsWhenTheSequencerIsFree := by
  intro s hh hj hp
  rw [turn_sched_presenting hh hj hp]
  refine ⟨fun hfree => if_pos ((presentEnabled_iff s).2 hfree), fun hbusy => if_neg fun he => ?_⟩
  obtain ⟨hidle, hfault⟩ := (presentEnabled_iff s).1 he
  simp [hidle, hfault] at hbusy

theorem sTopup_of_full (h : s.cfg.qCap ≤ s.mix.qCount.toNat) :
    sTopup s = .next { s with fts := { s.fts with topupN := 0 } } :=
  if_pos (decide_eq_true h)

theorem sTopup_of_room {v : Sample} {m : Mix} (h : s.mix.qCount.toNat < s.cfg.qCap)
    (e : mixOne s.cfg s.mix = some (v, m)) :
    sTopup s = .next { s.made v m with fts := { s.fts with topupN := s.fts.topupN - 1 } } := by
  rw [sTopup, qFull_eq_false.2 h, if_neg Bool.false_ne_true, withSample, e]
  rfl

theorem paceOver_iff (s : State) :
    paceOver s = true ↔
      s.cfg.paceEn = false ∨ s.fts.tStart.toNat + s.cfg.framePeriod ≤ s.sys.time.toNat := by
  simp [paceOver]

/-- Settles O50: S_TOPUP on a full queue and with room, then S_NEXT with the pace over and not over. -/
theorem waitingStepsTopUpThenAdvanceTheTick : Obligations.WaitingStepsTopUpThenAdvanceTheTick := by
  intro s hh hj hp
  rw [turn_sched_waiting hh hj hp]
  refine ⟨fun hn hfull => ?_, fun hn hroom v m e => ?_, fun hn htick hpace => ?_,
    fun hn hen hearly => ?_⟩
  · rw [if_pos hn, sTopup_of_full hfull]
  · rw [if_pos hn, sTopup_of_room hroom e]
    rfl
  · rw [if_neg (not_not.2 hn), if_pos ((paceOver_iff s).2 hpace)]
    exact if_pos htick
  · have hnot : ¬ paceOver s = true := by simp [paceOver_iff, hen, hearly]
    rw [if_neg (not_not.2 hn), if_neg hnot]

/-! ### The order of the phases (44_scheduler.md R249) -/

/-- Everything a step can do to PHASE, from the registers `f` to `g` of FTS: nothing, the return of a
callback (R233), or what S_SAMPLE (R240), S_PRESENT (R243) or S_NEXT (R246) does. -/
inductive PhaseStep (f g : Fts) : Prop
  | kept : g.phase = f.phase → PhaseStep f g
  | returned (v : Word) : g = callbackReturned v f → PhaseStep f g
  | sampled : f.phase = .sampling → g.phase = .updating → PhaseStep f g
  | presented : f.phase = .presenting → g.phase = .waitingForVsync → PhaseStep f g
  | advanced : f.phase = .waitingForVsync → g.phase = .sampling → PhaseStep f g

theorem PhaseStep.of_fts_eq (h : t.fts = s.fts) : PhaseStep s.fts t.fts :=
  .kept (congrArg Fts.phase h)

/-- A legal command moves PHASE only as CBRET: RUN leaves it Idle (R232). -/
theorem Effect.phaseStep {i : Instr} (h : Effect s i t) : PhaseStep s.fts t.fts := by
  cases h with
  | cbret v => exact .returned v rfl
  | insample => exact .of_fts_eq sampleInputs_fts
  | answer | draw | swap | holdSwap | holdDwait | dclr | dreset | channel | nothing | mixt | mixd
  | mixw | run | panic => exact .kept rfl

theorem exec_phaseStep {i : Instr} (e : exec i s = .next t) : PhaseStep s.fts t.fts := by
  rcases exec_cases i s with ⟨_, e'⟩ | ⟨_, _, e'⟩ | ⟨_, _, u, he, e'⟩ <;> cases e.symm.trans e'
  · exact .kept rfl
  · exact .kept rfl
  · exact he.phaseStep

/-- The loop of a production command writes the port and RSP only. -/
theorem LoopAnswer.fts {u : State} {left : Word} {j : Job} {r : Result}
    (h : LoopAnswer u left j r) (e : r = .next t) (hu : u.fts = s.fts) : t.fts = s.fts := by
  cases h <;> cases e <;> exact hu

/-- A sample-step that has a next state has made a sample (42_audio.md R192). -/
theorem withSample_next {use : Sample → State → Result} (e : withSample s use = .next t) :
    ∃ v m, use v { s with mix := m } = .next t := by
  rcases withSample_cases s use with ⟨v, m, _, e'⟩ | ⟨_, e'⟩
  · exact ⟨v, m, e'.symm.trans e⟩
  · cases e.symm.trans e'

/-- No command under way reaches FTS: RUN and CBRET end in their first step. -/
theorem continueJob_fts {j : Job} (e : continueJob j s = .next t) : t.fts = s.fts := by
  cases j with
  | swap =>
    rcases continueSwap_cases s with ⟨_, e'⟩ | ⟨_, _, e'⟩ | ⟨_, _, e'⟩ <;>
      cases e.symm.trans e' <;> rfl
  | dwait =>
    rcases continueDwait_cases s with ⟨_, e'⟩ | ⟨_, _, e'⟩ | ⟨_, _, e'⟩ <;>
      cases e.symm.trans e' <;> rfl
  | mixt k left =>
    rw [continueJob, continueMixt] at e
    split_ifs at e
    · exact (mixtLoop_answer ..).fts e rfl
    · obtain ⟨v, m, e⟩ := withSample_next e
      exact (mixtLoop_answer ..).fts e rfl
  | mixd left drop =>
    rw [continueJob, continueMixd] at e
    split_ifs at e
    · exact (mixdLoop_answer ..).fts e rfl
    · obtain ⟨v, m, e⟩ := withSample_next e
      split_ifs at e <;> exact (mixdLoop_answer ..).fts e rfl
  | mixw n left =>
    rw [continueJob, continueMixw] at e
    split_ifs at e
    · exact (mixwLoop_answer ..).fts e rfl
    · cases e
      rfl
    · obtain ⟨v, m, e⟩ := withSample_next e
      exact (mixwLoop_answer ..).fts e rfl

theorem hostTurn_phaseStep (e : hostTurn s = .next t) : PhaseStep s.fts t.fts := by
  rcases hostTurn_cases s with
    ⟨_, e'⟩ | ⟨_, j, _, e'⟩ | ⟨_, _, ⟨i, rest, _, e'⟩ | ⟨_, rest, _, e'⟩ | ⟨_, e'⟩⟩
  · cases e.symm.trans e'
    exact .kept rfl
  · exact .of_fts_eq (continueJob_fts (e'.symm.trans e))
  · exact exec_phaseStep (s := s.setCmd rest) (e'.symm.trans e)
  · cases e.symm.trans e'
    exact .kept rfl
  · cases e.symm.trans e'
    exact .kept rfl

theorem sTopup_phase (e : sTopup s = .next t) : t.fts.phase = s.fts.phase := by
  rcases sTopup_cases s with ⟨_, e'⟩ | ⟨_, _, e'⟩ | ⟨_, v, m, _, e'⟩ <;>
    cases e.symm.trans e' <;> rfl

/-- Of the scheduler's four steps S_TOPUP alone keeps PHASE (R245). -/
theorem schedTurn_phaseStep (e : schedTurn s = .next t) : PhaseStep s.fts t.fts := by
  rcases schedTurn_cases s with
    e' | ⟨_, _, ⟨hp, e'⟩ | ⟨hp, _, _, e'⟩ | ⟨_, _, e'⟩ | ⟨hp, _, _, e'⟩⟩
  · cases e.symm.trans e'
    exact .kept rfl
  · cases e.symm.trans e'
    exact .sampled hp rfl
  · cases e.symm.trans e'
    exact .presented hp rfl
  · exact .kept (sTopup_phase (e'.symm.trans e))
  · obtain ⟨_, _, hphase, _⟩ := sNext_counters (e'.symm.trans e)
    exact .advanced hp hphase

@[simp] theorem dBegin_fts (s : State) : (dBegin s).fts = s.fts := by
  rcases dBegin_cases s with ⟨_, _, e⟩ | ⟨_, e⟩ <;> simp [e]

@[simp] theorem aDrain_fts (s : State) : (aDrain s).fts = s.fts := by
  rcases aDrain_cases s with ⟨_, e⟩ | ⟨_, e⟩ <;> simp [e]

@[simp] theorem countTimeout_fts (s : State) : (countTimeout s).fts = s.fts := by
  rcases countTimeout_cases s with ⟨_, e⟩ | ⟨_, _, _, e⟩ | ⟨_, _, _, e⟩ <;> simp [e]

theorem dWord_fts (e : dWord s = .next t) : t.fts = s.fts := by
  rcases dWord_cases s with ⟨_, e'⟩ | ⟨_, _, e'⟩ | ⟨_, _, e'⟩ <;>
    cases e.symm.trans e' <;> rfl

theorem tbStep_fts (e : tbStep s = .next t) : t.fts = s.fts := by
  rcases tbStep_cases s with ⟨_, e'⟩ | ⟨_, e'⟩ <;> cases e.symm.trans e'
  exact countTimeout_fts _

/-- Only HOST and SCHED reach FTS. -/
theorem turn_phaseStep {e : Event} (h : turn e s = .next t) : PhaseStep s.fts t.fts := by
  cases e with
  | host => exact hostTurn_phaseStep h
  | sched => exact schedTurn_phaseStep h
  | dword => exact .of_fts_eq (dWord_fts h)
  | tb => exact .of_fts_eq (tbStep_fts h)
  | vsync => cases h; exact .of_fts_eq (dBegin_fts s)
  | sclk => cases h; exact .of_fts_eq (aDrain_fts s)
  | panelAck level => cases h; exact .kept rfl
  | btnRaw levels => cases h; exact .kept rfl
  | btnValid level => cases h; exact .kept rfl

/-- Where a callback returns to: the request pending goes with one phase only (44_scheduler.md R233),
so the phase entered is the one after it. -/
theorem callbackReturned_phase {f : Fts} (v : Word) (h : ftsOk f) :
    (callbackReturned v f).phase = f.phase ∨
    (f.phase = .idle ∧ (callbackReturned v f).phase = .sampling) ∨
    (f.phase = .updating ∧ (callbackReturned v f).phase = .drawing) ∨
    (f.phase = .drawing ∧ (callbackReturned v f).phase = .presenting) := by
  rcases (ftsOk_iff f).1 h with ⟨hc, _⟩ | ⟨hc, hp⟩ | ⟨hc, hp⟩ | ⟨hc, hp⟩
  · simp [callbackReturned, hc]
  · simp [callbackReturned_init v hc, hp]
  · simp [callbackReturned_update v hc, hp]
  · simp [callbackReturned_draw v hc, hp]

/-- Settles O51, by `turn_phaseStep`: three of the six moves are the scheduler's, the other three are
returns of callbacks, which the invariant ties to their phases. -/
theorem phasesFollowTheFixedOrder : Obligations.PhasesFollowTheFixedOrder := by
  intro s t h e hne
  have hstep : PhaseStep s.fts t.fts := turn_phaseStep (s := popEvent s) (step_eq_next.1 e).2
  cases hstep with
  | kept hphase => exact absurd hphase hne
  | returned v hret =>
    rw [hret] at hne ⊢
    rcases callbackReturned_phase v h.fts with hphase | ⟨hp, hq⟩ | ⟨hp, hq⟩ | ⟨hp, hq⟩
    · exact absurd hphase hne
    · simp [hp, hq]
    · simp [hp, hq]
    · simp [hp, hq]
  | sampled hp hq => simp [hp, hq]
  | presented hp hq => simp [hp, hq]
  | advanced hp hq => simp [hp, hq]

end Sys2Proof.Machine
end

section
/-! PROOFS. 60_exceptions.md: a command that fails has changed no state (O8), and a halted block is
frozen but for TIME (O54). -/

namespace Sys2Proof.Machine

variable {s t : State}

/-! ### A command that fails (60_exceptions.md R276) -/

/-- Everything the first step of a command can put on RSP: nothing, an answer that is all the step does,
or the answer of a step that has had its effect; the last is never one of the conditions of failure. -/
inductive Answered (s t : State) : Prop
  | silent : t.out.rsp = s.out.rsp → Answered s t
  | only (c : Cond) (v : BitVec 64) : c = .ok ∨ v = 0 → t = s.respond c v → Answered s t
  | after (c : Cond) (v : BitVec 64) : c = .ok ∨ c = .inputReadFailure →
      t.out.rsp = s.out.rsp ++ [⟨c, v⟩] → Answered s t

@[simp] theorem sampleInputs_out (s : State) : (sampleInputs s).out = s.out := by
  rcases sampleInputs_cases s with ⟨_, e⟩ | ⟨_, e⟩ <;> simp [e]

theorem Effect.answered {i : Instr} (h : Effect s i t) : Answered s t := by
  cases h with
  | answer i c v hv _ => exact .only c v hv rfl
  | holdSwap | holdDwait | mixt | mixd | mixw => exact .silent rfl
  | insample =>
    refine .after _ _ ?_ (by rw [State.respond_rsp, sampleInputs_out])
    split
    · exact .inl rfl
    · exact .inr rfl
  | draw | swap | dclr | dreset | channel | nothing | run | cbret | panic =>
    exact .after .ok _ (.inl rfl) rfl

theorem exec_answered {i : Instr} (e : exec i s = .next t) : Answered s t := by
  rcases exec_cases i s with ⟨_, e'⟩ | ⟨_, _, e'⟩ | ⟨_, _, u, he, e'⟩ <;> cases e.symm.trans e'
  · exact .silent rfl
  · exact .only .illegal 0 (.inr rfl) rfl
  · exact he.answered

/-- Settles O8, by `exec_answered`: a step that has an effect answers with none of the three
conditions, so the answer is all there is, and only an answer with Ok carries a value. -/
theorem failedCommandChangesNoState : Obligations.FailedCommandChangesNoState := by
  intro i s t c v e hrsp hfail
  cases exec_answered e with
  | silent hsame => simp [hsame] at hrsp
  | only c' v' hv ht =>
    subst ht
    obtain ⟨rfl, rfl⟩ : c' = c ∧ v' = v := by simpa using hrsp
    have hv0 : v' = 0 := hv.resolve_left (by rintro rfl; simp at hfail)
    rw [hv0]
  | after c' v' hc ht =>
    obtain ⟨rfl, _⟩ : c' = c ∧ v' = v := by simpa [ht] using hrsp
    rcases hc with rfl | rfl <;> simp at hfail

/-! ### A halted block (60_exceptions.md R266) -/

theorem hostTurn_halted (h : s.sys.halted = true) :
    hostTurn s = .next (s.setCmd (s.port.cmd.drop 1)) := if_pos h

theorem schedTurn_halted (h : s.sys.halted = true) : schedTurn s = .next s := by
  simp [schedTurn, h]

theorem dBegin_halted (h : s.sys.halted = true) : dBegin s = s := by
  simp [dBegin, h]

theorem dWord_halted (h : s.sys.halted = true) : dWord s = .next s := by
  simp [dWord, dWordEnabled, h]

theorem aDrain_halted (h : s.sys.halted = true) : aDrain s = s := if_pos h

theorem countTimeout_halted (h : s.sys.halted = true) : countTimeout s = s := by
  simp [countTimeout, h]

/-- TIME counts while the block is halted, the transfer timeout does not (41_display.md R163). -/
theorem tbStep_halted (h : s.sys.halted = true) (e : tbStep s = .next t) :
    t = { s with sys := { s.sys with time := s.sys.time + 1 } } := by
  rcases tbStep_cases s with ⟨_, e'⟩ | ⟨_, e'⟩ <;> cases e.symm.trans e'
  exact countTimeout_halted h

/-- Everything a turn can do to a halted block: HOST loses a word, TIME counts, ENV sets its levels, and
a turn of any other agent does nothing. -/
inductive HaltedTurn (s : State) : Event → State → Prop
  | lost : HaltedTurn s .host (s.setCmd (s.port.cmd.drop 1))
  | counted : HaltedTurn s .tb { s with sys := { s.sys with time := s.sys.time + 1 } }
  | levels (e : Event) (levels : Env) : e ≠ .host → e ≠ .tb →
      HaltedTurn s e { s with env := levels }
  | idle (e : Event) : e ≠ .host → e ≠ .tb → HaltedTurn s e s

theorem turn_halted {e : Event} (h : s.sys.halted = true) (ht : turn e s = .next t) :
    HaltedTurn s e t := by
  cases e with
  | host => cases ht.symm.trans (hostTurn_halted h); exact .lost
  | sched => cases ht.symm.trans (schedTurn_halted h); exact .idle _ nofun nofun
  | vsync => cases ht; rw [dBegin_halted h]; exact .idle _ nofun nofun
  | dword => cases ht.symm.trans (dWord_halted h); exact .idle _ nofun nofun
  | sclk => cases ht; rw [aDrain_halted h]; exact .idle _ nofun nofun
  | tb => rw [tbStep_halted h ht]; exact .counted
  | panelAck level => cases ht; exact .levels _ _ nofun nofun
  | btnRaw levels => cases ht; exact .levels _ _ nofun nofun
  | btnValid level => cases ht; exact .levels _ _ nofun nofun

/-- What no turn of a halted block changes. -/
structure Frozen (s t : State) : Prop where
  cfg : t.cfg = s.cfg
  fbc : t.fbc = s.fbc
  dos : t.dos = s.dos
  mix : t.mix = s.mix
  inp : t.inp = s.inp
  fts : t.fts = s.fts
  out : t.out = s.out
  job : t.port.job = s.port.job
  halted : t.sys.halted = s.sys.halted
  sticky : t.sys.sticky = s.sys.sticky

theorem HaltedTurn.frozen {e : Event} (h : HaltedTurn s e t) : Frozen s t := by
  cases h <;> constructor <;> rfl

theorem HaltedTurn.time_of_tb (h : HaltedTurn s .tb t) : t.sys.time = s.sys.time + 1 := by
  cases h with
  | counted => rfl
  | levels _ _ _ hne | idle _ _ hne => exact absurd rfl hne

theorem HaltedTurn.time_of_ne_tb {e : Event} (h : HaltedTurn s e t) (hne : e ≠ .tb) :
    t.sys.time = s.sys.time := by
  cases h with
  | counted => exact absurd rfl hne
  | lost | levels | idle => rfl

theorem HaltedTurn.cmd_of_host (h : HaltedTurn s .host t) : t.port.cmd = s.port.cmd.drop 1 := by
  cases h with
  | lost => rfl
  | levels _ _ hne | idle _ hne => exact absurd rfl hne

/-- Settles O54, by `turn_halted`: taking the agenda entry first leaves the block halted and writes
none of the fields spoken of. -/
theorem haltedBlockIsFrozen : Obligations.HaltedBlockIsFrozen := by
  intro s t e hh
  have h : HaltedTurn (popEvent s) (nextEvent s) t := turn_halted hh (step_eq_next.1 e).2
  obtain ⟨hcfg, hfbc, hdos, hmix, hinp, hfts, hout, hjob, hhalted, hsticky⟩ := h.frozen
  refine ⟨hcfg, hfbc, hdos, hmix, hinp, hfts, hout, hjob, hhalted.trans hh, hsticky,
    fun htb => ?_, h.time_of_ne_tb, fun hhost => ?_⟩
  · rw [htb] at h
    exact h.time_of_tb
  · rw [hhost] at h
    exact h.cmd_of_host

end Sys2Proof.Machine
end

section
/-! PROOFS. 70_reset_and_hazards.md: the registers after reset (O55), and the invariant after power-on
(O56). -/

namespace Sys2Proof.Machine

/-! ### The channel file and the debouncer (70_reset_and_hazards.md R303, R305) -/

theorem eq_reset_of_mem_chans {c : Config} {ch : Channel}
    (h : ch ∈ (State.resetFor c).mix.chans) : ch = Channel.reset :=
  List.eq_of_mem_replicate h

theorem resetFor_chans_getElem? {c : Config} {k : Nat} (hk : k < c.nCh) :
    (State.resetFor c).mix.chans[k]? = some Channel.reset :=
  List.getElem?_replicate_of_lt hk

theorem resetFor_dbCnt_getElem? {c : Config} {b : Nat} (hb : b < c.nBtn) :
    (State.resetFor c).inp.dbCnt[b]? = some 0 :=
  List.getElem?_replicate_of_lt hb

/-! ### The packed views (10_state.md R62) -/

/-- Every field of STATUS is the zero code after reset, so their sum `status_toNat` is 0. -/
theorem resetFor_status (c : Config) : (State.resetFor c).status = 0 := by
  apply BitVec.eq_of_toNat_eq
  rw [status_toNat, busy_toNat]
  rfl

theorem reset_ctrl : Channel.reset.ctrl = 0 := rfl

/-- Settles O55: the channel file and the debouncer hold one value for every channel and every button,
STATUS and CH_CTRL are packed from zero codes, and every other register is as `State.resetFor` writes
it. -/
theorem resetLeavesTheSpecifiedValues : Obligations.ResetLeavesTheSpecifiedValues := by
  intro c
  have hctrl : ∀ ch ∈ (State.resetFor c).mix.chans, ch.ctrl = 0 := by
    intro ch hch
    rw [eq_reset_of_mem_chans hch, reset_ctrl]
  exact ⟨rfl, rfl, fun _ => resetFor_chans_getElem?, rfl, rfl, rfl, rfl, rfl, rfl, rfl,
    fun _ => resetFor_dbCnt_getElem?, rfl, rfl, resetFor_status c, hctrl, rfl, rfl⟩

/-- Settles O56, by `powerOn_inv`: each unit's part of the invariant holds of its reset values, and the
words, the order and the levels are in no part of it. -/
theorem powerOnSatisfiesTheInvariant : Obligations.PowerOnSatisfiesTheInvariant :=
  fun _ words order levels hc => powerOn_inv hc words order levels

end Sys2Proof.Machine
end

section
/-! PROOFS. 95_test_vectors.md section 2.1: the word sequences written out there (O3). -/

namespace Sys2Proof

/-- The words a well-formed command is encoded by decode to it, with no word left over. -/
theorem decode_of_encode_eq {i : Instr} {ws : List Word} (hwf : i.wellFormed = true)
    (henc : encode i = ws) : decode ws = .command i [] := by
  simpa [henc] using decodeEncodeRoundTrip i [] hwf

/-- The TEXT of five codes whose second character word has its three unused bytes set is no command's
encoding; the decoder takes four operand words and ignores those bytes (30_encoding.md R111, R118). -/
theorem decode_text_unusedBytesSet :
    decode [0x07000005, 0x00010002, 0x00000006, 0x4C4C4548, 0xFFFFFF4F] =
      .command (.text 2 1 6 [0x48, 0x45, 0x4C, 0x4C, 0x4F]) [] :=
  decode_eq_command_iff.2
    ⟨.text, 4, rfl, rfl, by decide, by decide, by decide, rfl⟩

/-- Settles O3, by the round trip O1: every sequence but that of TEXT is the encoding of its command. -/
theorem specWordsDecodeToTheirCommands : Obligations.SpecWordsDecodeToTheirCommands := by
  refine ⟨?swap, ?pset, ?line, ?rect, ?blit, decode_text_unusedBytesSet, ?dtry, ?chwave, ?chfreq,
    ?chpos, ?chstart, ?chtable, ?mixd, ?insample, ?cbret, ?rdreg⟩
  all_goals exact decode_of_encode_eq (by decide) (by decide)

end Sys2Proof
end
